-- ==== Sys2Proof/Word.lean ====
section
/-! DEFINITION. The plain data of the two bus lines: bytes, line levels and the two pins (00_scope.md R5). -/

namespace Sys2Proof

/-- A data byte, and the width of the shift register (`BYTE_W`, R4). -/
abbrev Byte := BitVec 8

/-- A bus address (`ADDR_W`, R4). -/
abbrev Addr7 := BitVec 7

/-- A transfer length and a buffer index (`LEN_W`, R4). -/
abbrev Index := BitVec 12

/-- The level of a bus line (R5, R46). Writing `high` to an open-drain pin releases it. -/
inductive Level where
  | low
  | high
deriving DecidableEq, Repr, Inhabited

/-- The logical bit a level stands for: `1 ↔ HIGH`, `0 ↔ LOW` (R46). -/
def Level.bit : Level → Bool
  | .low => false
  | .high => true

/-- The level a logical bit is sent as (R46). -/
def Level.ofBit : Bool → Level
  | false => .low
  | true => .high

/-- The two bus lines of the controller (R33, pin space). -/
inductive Pin where
  | scl
  | sda
deriving DecidableEq, Repr

end Sys2Proof
end

