-- ==== Sys2Proof/Syntax.lean ====
section
/-! DEFINITION. The four commands and the seven micro-operations (30_encoding.md R56, R59), the words that
carry them, and the assembler forms of R61 and R62. -/

namespace Sys2Proof

/-- One constructor per row of the opcode table. -/
inductive Instr where
  /-- `INIT` (R85). -/
  | init
  /-- `WRITE a, r, n` (R86). -/
  | write (a : Addr7) (r : Byte) (n : Nat)
  /-- `READ a, r, n` (R89). -/
  | read (a : Addr7) (r : Byte) (n : Nat)
  /-- `PROBE a` (R92). -/
  | probe (a : Addr7)
  /-- `START` (R66). -/
  | start
  /-- `STOP` (R67). -/
  | stop
  /-- `TXBIT b` (R68). -/
  | txbit (b : Bool)
  /-- `RXBIT` (R69). -/
  | rxbit
  /-- `TXBYTE v` (R76). -/
  | txbyte (v : Byte)
  /-- `RXBYTE a` (R77): `a` true to acknowledge the byte. -/
  | rxbyte (a : Bool)
  /-- `WACK` (R79). -/
  | wack
deriving DecidableEq, Repr

/-- R54: the two word formats. A `cmd` word comes over the command port; a `uop` word reaches the sequencer
only in a micro-operation sequence built by a test (R59, R131). -/
inductive PortWord where
  | cmd (w : BitVec 32)
  | uop (w : BitVec 12)
deriving DecidableEq, Repr

/-- The assembler forms of R61 and the mnemonics and pseudo-forms of R62, operands as numbers. -/
inductive Asm where
  | init
  | write (a r n : Nat)
  | read (a r n : Nat)
  | probe (a : Nat)
  | start
  | stop
  | txbit (b : Nat)
  | rxbit
  | txbyte (v : Nat)
  | rxbyte (a : Nat)
  | wack
  /-- `RSTART`: START at the repeated-start point. -/
  | rstart
  /-- `ACKBIT`: `TXBIT 0`. -/
  | ackbit
  /-- `NACKBIT`: `TXBIT 1`. -/
  | nackbit
  /-- `TXADDR a, rw`: `TXBYTE ((a << 1) | rw)`. -/
  | txaddr (a rw : Nat)
deriving DecidableEq, Repr

end Sys2Proof
end

