-- ==== Sys2Proof/WellFormed.lean ====
section
/-! DEFINITION. Which terms of `Instr` are instructions: a length fits the 12 bits of `LEN` (R55, R61). The
other operands have their width in their type. -/

namespace Sys2Proof

/-- R55, R61: `n` is 0..4095; every other operand is in range by its type. -/
def Instr.wellFormed : Instr → Bool
  | .init => true
  | .write _ _ n => decide (n < 4096)
  | .read _ _ n => decide (n < 4096)
  | .probe _ => true
  | .start => true
  | .stop => true
  | .txbit _ => true
  | .rxbit => true
  | .txbyte _ => true
  | .rxbyte _ => true
  | .wack => true

/-- The four commands, as against the micro-operations (R6 item 3). -/
def Instr.isCommand : Instr → Bool
  | .init => true
  | .write _ _ _ => true
  | .read _ _ _ => true
  | .probe _ => true
  | .start => false
  | .stop => false
  | .txbit _ => false
  | .rxbit => false
  | .txbyte _ => false
  | .rxbyte _ => false
  | .wack => false

end Sys2Proof
end

