-- ==== Sys2Proof/Decode.lean ====
section
/-! DEFINITION. The decoder of CMD32 and UOP12 words, total and rejecting by name; after it the encoder, and
the assembler of R61 and R62 (30_encoding.md). -/

namespace Sys2Proof

/-- A row of an opcode map: a word `w` selects it when `(w & mask) = pattern` (R56, R59). -/
structure Row (n : Nat) where
  pattern : BitVec n
  mask : BitVec n
deriving DecidableEq, Repr

/-- R56: does the word select the row? -/
def Row.hit {n : Nat} (row : Row n) (w : BitVec n) : Bool := decide (w &&& row.mask = row.pattern)

/-! The four rows of R56. -/

def initRow : Row 32 := ⟨0x10000000#32, 0xFFFFFFFF#32⟩
def writeRow : Row 32 := ⟨0x20000000#32, 0xF8000000#32⟩
def readRow : Row 32 := ⟨0x30000000#32, 0xF8000000#32⟩
def probeRow : Row 32 := ⟨0x40000000#32, 0xF80FFFFF#32⟩

/-- The opcode map of R56. -/
def cmdRows : List (Row 32) := [initRow, writeRow, readRow, probeRow]

/-! The seven rows of R59. -/

def startRow : Row 12 := ⟨0x100#12, 0xFFF#12⟩
def stopRow : Row 12 := ⟨0x200#12, 0xFFF#12⟩
def txbitRow : Row 12 := ⟨0x300#12, 0xFFE#12⟩
def rxbitRow : Row 12 := ⟨0x400#12, 0xFFF#12⟩
def txbyteRow : Row 12 := ⟨0x500#12, 0xF00#12⟩
def rxbyteRow : Row 12 := ⟨0x600#12, 0xFFE#12⟩
def wackRow : Row 12 := ⟨0x700#12, 0xFFF#12⟩

/-- The micro-operation map of R59. -/
def uopRows : List (Row 12) :=
  [startRow, stopRow, txbitRow, rxbitRow, txbyteRow, rxbyteRow, wackRow]

/-! The fields of R55 and R63. -/

/-- `OP = w[31:28]`. -/
def cmdOp (w : BitVec 32) : BitVec 4 := w.extractLsb' 28 4
/-- `Z = w[27]`. -/
def cmdZ (w : BitVec 32) : BitVec 1 := w.extractLsb' 27 1
/-- `ADDR7 = w[26:20]`. -/
def cmdAddr7 (w : BitVec 32) : Addr7 := w.extractLsb' 20 7
/-- `REG8 = w[19:12]`. -/
def cmdReg8 (w : BitVec 32) : Byte := w.extractLsb' 12 8
/-- `LEN = w[11:0]`. -/
def cmdLen (w : BitVec 32) : Index := w.extractLsb' 0 12
/-- `UOPC`, bits 11:8 of a UOP12 word (R59). -/
def uopCode (w : BitVec 12) : BitVec 4 := w.extractLsb' 8 4
/-- `ARG`, bits 7:0 of a UOP12 word (R59). -/
def uopArg (w : BitVec 12) : Byte := w.extractLsb' 0 8

/-- Why a word is no instruction. -/
inductive DecodeError where
  /-- R57: `OP` is 0x0 or 0x5..0xF. -/
  | reservedOp
  /-- R57: `Z` is 1. -/
  | zBitSet
  /-- R57: INIT or PROBE with a bit set in a field it does not use. -/
  | unusedFieldSet
  /-- R59: `UOPC` is 0x0 or 0x8..0xF. -/
  | reservedUopc
  /-- R59: a must-be-zero bit of `ARG` is set. -/
  | argBitSet
deriving DecidableEq, Repr

/-- The decoder's answer. -/
inductive Decoded where
  | ok (i : Instr)
  | rejected (e : DecodeError)
deriving DecidableEq, Repr

/-- The instruction of an answer, if any. -/
def Decoded.instr? : Decoded → Option Instr
  | .ok i => some i
  | .rejected _ => none

/-- R57: which of the illegal encodings a word that selects no row is. -/
def cmdError (w : BitVec 32) : DecodeError :=
  if cmdOp w = 0#4 ∨ 5#4 ≤ cmdOp w then .reservedOp
  else if cmdZ w = 1#1 then .zBitSet
  else .unusedFieldSet

/-- R56, R57, R63: the instruction of a command word. -/
def decodeCmd (w : BitVec 32) : Decoded :=
  if initRow.hit w then .ok .init
  else if writeRow.hit w then .ok (.write (cmdAddr7 w) (cmdReg8 w) (cmdLen w).toNat)
  else if readRow.hit w then .ok (.read (cmdAddr7 w) (cmdReg8 w) (cmdLen w).toNat)
  else if probeRow.hit w then .ok (.probe (cmdAddr7 w))
  else .rejected (cmdError w)

/-- R59: why a UOP12 word that selects no row names no micro-operation. -/
def uopError (w : BitVec 12) : DecodeError :=
  if uopCode w = 0#4 ∨ 8#4 ≤ uopCode w then .reservedUopc else .argBitSet

/-- R59: the micro-operation of a UOP12 word. -/
def decodeUop (w : BitVec 12) : Decoded :=
  if startRow.hit w then .ok .start
  else if stopRow.hit w then .ok .stop
  else if txbitRow.hit w then .ok (.txbit (w.getLsbD 0))
  else if rxbitRow.hit w then .ok .rxbit
  else if txbyteRow.hit w then .ok (.txbyte (uopArg w))
  else if rxbyteRow.hit w then .ok (.rxbyte (w.getLsbD 0))
  else if wackRow.hit w then .ok .wack
  else .rejected (uopError w)

/-- The decoder: total on every word of both formats (R54). -/
def decode : PortWord → Decoded
  | .cmd w => decodeCmd w
  | .uop w => decodeUop w

/-- The word of an instruction numbered as spec/opcode_table.json numbers it: a row of 12 bits is a UOP12
word, a row of 32 bits a CMD32 word. -/
def tableWord (nbits w : Nat) : PortWord :=
  if nbits ≤ 16 then .uop (BitVec.ofNat 12 w) else .cmd (BitVec.ofNat 32 w)

/-- What the decoder reads from a word of the opcode table; a number that does not fit the format is none. -/
def decodeTableWord (nbits w : Nat) : Option Instr :=
  if w < (if nbits ≤ 16 then 2 ^ 12 else 2 ^ 32) then (decode (tableWord nbits w)).instr? else none

/-! ## Encoder -/

/-- R55: the CMD32 word of its fields, `Z` = 0. -/
def cmdWord (op : BitVec 4) (a : Addr7) (r : Byte) (n : Index) : BitVec 32 :=
  op ++ 0#1 ++ a ++ r ++ n

/-- R59: the UOP12 word of its fields. -/
def uopWord (code : BitVec 4) (arg : Byte) : BitVec 12 := code ++ arg

/-- A one-bit operand in bit 0 of `ARG`, bits 7:1 zero (R59). -/
def argBit (b : Bool) : Byte := if b then 1#8 else 0#8

/-- R55, R56, R59: the word of an instruction. -/
def encode : Instr → PortWord
  | .init => .cmd (cmdWord 0x1#4 0#7 0#8 0#12)
  | .write a r n => .cmd (cmdWord 0x2#4 a r (BitVec.ofNat 12 n))
  | .read a r n => .cmd (cmdWord 0x3#4 a r (BitVec.ofNat 12 n))
  | .probe a => .cmd (cmdWord 0x4#4 a 0#8 0#12)
  | .start => .uop (uopWord 0x1#4 0#8)
  | .stop => .uop (uopWord 0x2#4 0#8)
  | .txbit b => .uop (uopWord 0x3#4 (argBit b))
  | .rxbit => .uop (uopWord 0x4#4 0#8)
  | .txbyte v => .uop (uopWord 0x5#4 v)
  | .rxbyte a => .uop (uopWord 0x6#4 (argBit a))
  | .wack => .uop (uopWord 0x7#4 0#8)

/-! ## Assembler -/

/-- R61: an operand in its range, or an assembly error. -/
def inRange (bound v : Nat) : Option Nat := if v < bound then some v else none

/-- The instruction of an assembler form; `none` is the assembly error of R61 (a number outside its range). -/
def Asm.instr? : Asm → Option Instr
  | .init => some .init
  | .write a r n => do
      return .write (BitVec.ofNat 7 (← inRange 128 a)) (BitVec.ofNat 8 (← inRange 256 r)) (← inRange 4096 n)
  | .read a r n => do
      return .read (BitVec.ofNat 7 (← inRange 128 a)) (BitVec.ofNat 8 (← inRange 256 r)) (← inRange 4096 n)
  | .probe a => do return .probe (BitVec.ofNat 7 (← inRange 128 a))
  | .start => some .start
  | .stop => some .stop
  | .txbit b => do return .txbit ((← inRange 2 b) == 1)
  | .rxbit => some .rxbit
  | .txbyte v => do return .txbyte (BitVec.ofNat 8 (← inRange 256 v))
  | .rxbyte a => do return .rxbyte ((← inRange 2 a) == 1)
  | .wack => some .wack
  | .rstart => some .start
  | .ackbit => some (.txbit false)
  | .nackbit => some (.txbit true)
  | .txaddr a rw => do return .txbyte (BitVec.ofNat 8 (2 * (← inRange 128 a) + (← inRange 2 rw)))

/-- R61, R62: the word of an assembler form. -/
def assemble (f : Asm) : Option PortWord := f.instr?.map encode

end Sys2Proof
end

