-- ==== Sys2Proof/Config.lean ====
section
/-! DEFINITION. The static configuration record of one instance (R4, R19) and the model's one free value:
the level the environment puts on the data line (R27). -/

namespace Sys2Proof

/-- The static configuration (`SCL_PIN`, `SDA_PIN`, `T_HALF`) of R4 and R19: no command writes it. -/
structure Config where
  /-- `SCL_PIN`: which pin is the clock line. -/
  sclPin : Nat
  /-- `SDA_PIN`: which pin is the data line. -/
  sdaPin : Nat
  /-- `T_HALF`: the half-period in microseconds, 0..65535. -/
  tHalf : BitVec 16
deriving DecidableEq, Repr

/-- R4: `T_HALF` is 5 by default. DESIGN CHOICE (log 4, unsafe): the spec gives no pin identifiers; the
model writes 0 and 1. -/
def Config.default : Config := { sclPin := 0, sdaPin := 1, tHalf := 5#16 }

/-- R4: `SDA_PIN ≠ SCL_PIN`. -/
def Config.ok (c : Config) : Bool := decide (c.sclPin ≠ c.sdaPin)

/-- FREE VALUE (R27; 93 U5; log 1, safe): what the peers and the pull-up put on the data line at the read
with this number, where the oracle script in `State` lists no answer. Nothing constrains it. -/
opaque Config.freeLevel : Nat → Level

end Sys2Proof
end

