-- ==== Sys2Proof/Machine/State.lean ====
section
/-! DEFINITION. The state of the controller (10_state.md), the two host buffers (20_memory.md), the event trace
(R28), and what the environment hands the controller (60_exceptions.md R112, R113, R115), as plain data. -/

namespace Sys2Proof.Machine

/-- R14: the transaction state. The codes 6 and 7 are never taken. -/
inductive Phase where
  | idle
  | started
  | addressed
  | writing
  | reading
  | stopped
deriving DecidableEq, Repr

/-- R18, R58: the status of a completed command. -/
inductive Status where
  | ok
  | nack
  | illegal
  | noinit
deriving DecidableEq, Repr

/-- R29, R113: the mode of a pin, held by the platform's pin driver. -/
inductive PinMode where
  /-- No `CFG` event has reached the pin. -/
  | unconfigured
  /-- `pin_configure(pin, mode=open_drain_output)` has been requested. -/
  | openDrainOutput
deriving DecidableEq, Repr

/-- R5: an event of a run. -/
inductive Event where
  /-- `CFG(p)`. -/
  | cfg (p : Pin)
  /-- `W(p, l)`. -/
  | w (p : Pin) (l : Level)
  /-- `R(SDA) = l`. -/
  | r (l : Level)
  /-- `D(n)`. -/
  | d (n : BitVec 16)
  /-- `LD(i) = v`. -/
  | ld (i : Index) (v : Byte)
  /-- `ST(i, v)`. -/
  | st (i : Index) (v : Byte)
  /-- `RSP(s)`. -/
  | rsp (s : Status)
deriving DecidableEq, Repr

/-- One action of the sequencer: the lines of the pseudocode of the 4N files, each either an event or a
register write between two events. What each does is `Act.apply` (Machine/Ops.lean). -/
inductive Act where
  /-- `emit CFG(p)`. -/
  | cfg (p : Pin)
  /-- `emit W(p, l)`. -/
  | write (p : Pin) (l : Level)
  /-- `emit W(SDA, SHR[7])` (TXBYTE's TXBIT). -/
  | writeTopBit
  /-- `emit D(T_HALF)`. -/
  | delay
  /-- `l <- R(SDA)`. -/
  | sample
  /-- `v <- LD(IDX)`, the byte going to `SHR`. -/
  | load
  /-- `ST(IDX, SHR)`. -/
  | store
  /-- `STATUS <- s ; emit RSP(s) ; BUSY <- 0`. -/
  | respond (s : Status)
  /-- PROBE's `STATUS <- (OK if ACKF = 1 else NACK) ; emit RSP(STATUS) ; BUSY <- 0`. -/
  | respondAck
  /-- `SHR <- v`. -/
  | setShr (v : Byte)
  /-- `BITCNT <- 0`. -/
  | clearBitcnt
  /-- `SHR <- (SHR << 1) & 0xFF ; BITCNT <- BITCNT + 1`. -/
  | shiftOut
  /-- `SHR <- ((SHR << 1) | bit) & 0xFF ; BITCNT <- BITCNT + 1`. -/
  | shiftIn
  /-- `ACKF <- (bit = 0)`. -/
  | latchAck
  /-- `PHASE <- p`. -/
  | setPhase (p : Phase)
  /-- PROBE's `if ACKF = 1: PHASE <- ADDRESSED`. -/
  | addressedIfAck
  /-- `IDX <- 0`. -/
  | clearIdx
  /-- `IDX <- IDX + 1`. -/
  | nextIdx
  /-- `INITED <- 1`. -/
  | setInited
  /-- `if ACKF = 0: abort NoAcknowledgment` (R84, R104). -/
  | abortIfNack
deriving DecidableEq, Repr

/-- MODEL'S OWN (log 6): how far one step goes. -/
inductive Pace where
  /-- A step runs an accepted command to its `RSP`. -/
  | whole
  /-- A step is an acceptance, and then one event (R6 item 1, D21). -/
  | event
deriving DecidableEq, Repr

/-- A host buffer: (index, byte) pairs, indices strictly rising, no byte equal to `Memory.fill` listed. -/
abbrev Memory := List Host.Cell

/-- What an index that is not listed reads as. The 4096 bytes of a buffer are the host's (R30), so this is how
a buffer is written down; DESIGN CHOICE (log 3) only for the buffers of `State.reset`. -/
def Memory.fill : Byte := 0#8

/-- The machine. -/
@[ext]
structure State where
  /-- The static configuration (R4, R19); no step changes it (log 4). -/
  cfg : Config
  /-- `SCL_OUT` (R20): true releases the clock line, false pulls it LOW. -/
  sclOut : Bool
  /-- `SDA_OUT` (R20): true releases the data line, false pulls it LOW. -/
  sdaOut : Bool
  /-- The pin driver's mode of the clock pin (R29). -/
  sclMode : PinMode
  /-- The pin driver's mode of the data pin (R29). -/
  sdaMode : PinMode
  /-- `INITED` (R17). -/
  inited : Bool
  /-- `BUSY` (R16). -/
  busy : Bool
  /-- `PHASE` (R14). -/
  phase : Phase
  /-- `STATUS` (R18). -/
  status : Status
  /-- `ACKF` (R15). -/
  ackf : Bool
  /-- `SHR` (R11). -/
  shr : Byte
  /-- `BITCNT` (R11). -/
  bitcnt : BitVec 4
  /-- `IDX` (R11). -/
  idx : Index
  /-- RXBIT's one-bit result (R65(d), R69), kept here (log 12). -/
  rxbit : Bool
  /-- `OP` (R11, R12). -/
  op : BitVec 4
  /-- `ADDR7` (R11, R12). -/
  addr7 : Addr7
  /-- `REG8` (R11, R12). -/
  reg8 : Byte
  /-- `LEN` (R11, R12). -/
  len : Index
  /-- `UPC` (R13): the events the running command has emitted. -/
  upc : Nat
  /-- The rest of the sequencer position (R13): what the running command has still to do, next action first
  (log 23). -/
  todo : List Act
  /-- TXBUF (R30). -/
  txbuf : Memory
  /-- RXBUF (R30). -/
  rxbuf : Memory
  /-- The trace of the running or last command (R28): history, read by no rule. -/
  trace : List Event
  /-- The words the host presents, first to be accepted first (R115): `cmd_valid` and `cmd_word`. -/
  inbox : List PortWord
  /-- For how many further steps the host holds `rst` at 1 (R115, R120). -/
  rstFor : Nat
  /-- MODEL'S OWN (log 6): how far one step goes. -/
  pace : Pace
  /-- The oracle script (R27): the environment's answers to the next `R(SDA)` events. -/
  script : List Level
  /-- MODEL'S OWN (log 1): the number of the next read, the argument of the free value. -/
  reads : Nat
deriving DecidableEq, Repr

/-- The machine right after reset (R29, R120). `SCL_OUT`, `SDA_OUT`, `INITED`, `BUSY`, `PHASE`, `STATUS` and
`UPC` as the spec gives them. DESIGN CHOICE (log 2, unsafe): the registers R29 leaves unspecified are zero;
DESIGN CHOICE (logs 1, 3, 4, 5, 6): the other fields, which are not the controller's. -/
def State.reset : State where
  cfg := Config.default
  sclOut := true
  sdaOut := true
  sclMode := .unconfigured
  sdaMode := .unconfigured
  inited := false
  busy := false
  phase := .idle
  status := .ok
  ackf := false
  shr := 0#8
  bitcnt := 0#4
  idx := 0#12
  rxbit := false
  op := 0#4
  addr7 := 0#7
  reg8 := 0#8
  len := 0#12
  upc := 0
  todo := []
  txbuf := []
  rxbuf := []
  trace := []
  inbox := []
  rstFor := 0
  pace := .whole
  script := []
  reads := 0

/-- Why the machine stops. The controller itself never does: "There is no fatal/unrecoverable category"
(R100); a missing acknowledgment and the two refused commands are next states. -/
inductive Fault where
  /-- Raised by `step` in a state with `BUSY` = 1 and nothing left to do, which is no state of the machine
  (R13, R16) and which no step leads to (log 20). Safe: the model stops. -/
  | positionLost
deriving DecidableEq, Repr

/-- What the model gives no meaning, because the spec says `refuse` (93_implementation_defined.md). -/
inductive Refusal where
  /-- Raised by an arm of `exec` whose instruction has no meaning yet; no arm does. Safe. -/
  | notModelled (mnemonic : String)
  /-- Raised by STOP, TXBIT, RXBIT, TXBYTE, RXBYTE and WACK with `SCL_OUT` = 1 at entry (R131; 93 U23;
  log 24). Safe. -/
  | clockHigh
  /-- Raised by `step` on a UOP12 word that names no micro-operation (R59; 93 U22). Safe. -/
  | noMicroOperation
  /-- Raised by `step` where `SDA_PIN` = `SCL_PIN`: "configuration not admitted" (R4; 93 U28; log 21). Safe. -/
  | pinsNotDistinct
deriving DecidableEq, Repr

end Sys2Proof.Machine
end

