-- ==== Sys2Proof/Machine/Flags.lean ====
section
/-! DEFINITION. The flags and the codes of the status ports (R14, R15, R18, R58), and the levels of the lines
(R24). -/

namespace Sys2Proof.Machine

/-- R15, R79: `ACKF <- (bit = 0)`. -/
def ackOfBit (bit : Bool) : Bool := !bit

/-- R92: PROBE's status, `OK if ACKF = 1 else NACK`. -/
def statusOfAck (ackf : Bool) : Status := if ackf then .ok else .nack

/-- R58: the 2-bit status code. -/
def Status.code : Status → BitVec 2
  | .ok => 0#2
  | .nack => 1#2
  | .illegal => 2#2
  | .noinit => 3#2

/-- R14: the 3-bit code of `PHASE`. -/
def Phase.code : Phase → BitVec 3
  | .idle => 0#3
  | .started => 1#3
  | .addressed => 2#3
  | .writing => 3#3
  | .reading => 4#3
  | .stopped => 5#3

/-- R14: `IDLE` and `STOPPED` both mean "no transaction in progress". -/
def Phase.noTransaction : Phase → Bool
  | .idle => true
  | .started => false
  | .addressed => false
  | .writing => false
  | .reading => false
  | .stopped => true

/-- R24: the level of a line whose latch at the controller is `latch` and on which the other drivers and the
pull-up together give `others`: LOW when any driver pulls LOW. -/
def lineLevel (latch : Bool) (others : Level) : Level := if latch then others else .low

end Sys2Proof.Machine
end

