-- ==== Sys2Proof/Machine/Operands.lean ====
section
/-! DEFINITION. Every operand the controller assembles or takes apart (R50, R63, R95, R96): the address byte,
the bits of the shift register, the acknowledgment bit RXBYTE drives, the buffer index. -/

namespace Sys2Proof.Machine

/-- R50: the address byte `AB(ADDR7, rw) = (ADDR7 << 1) | rw`, `rw` true for read. -/
def addressByte (a : Addr7) (rw : Bool) : Byte :=
  (a.setWidth 8 <<< 1) ||| (if rw then 1#8 else 0#8)

/-- R76: the bit TXBYTE sends next, `SHR[7]`. -/
def topBit (v : Byte) : Bool := v.getLsbD 7

/-- R76, R96(b): `(SHR << 1) & 0xFF`. -/
def shiftLeft (v : Byte) : Byte := v <<< 1

/-- R77, R96(b): `((SHR << 1) | bit) & 0xFF`. -/
def shiftInBit (v : Byte) (bit : Bool) : Byte := (v <<< 1) ||| (if bit then 1#8 else 0#8)

/-- R77, R51: the bit RXBYTE sends as the acknowledgment, ACK being logical 0 and NACK logical 1. -/
def ackBit (sendAck : Bool) : Bool := !sendAck

/-- R89: the acknowledgment operand of byte `i` of `n`, `1 if IDX + 1 < LEN else 0`. -/
def ackOperand (i n : Nat) : Bool := decide (i + 1 < n)

/-- R35, R95: the effective address of an `LD` or `ST` is `IDX` itself. -/
def bufferAddress (i : Index) : Nat := i.toNat

end Sys2Proof.Machine
end

