-- ==== Sys2Proof/Machine/Ops.lean ====
section
/-! DEFINITION. The operations every meaning is built from: the buffers, emitting an event, the environment's
answer to a read, one action of the sequencer, the abort, running a position to its end or to its next event,
accepting a command, and reset. -/

namespace Sys2Proof.Machine

/-! ## Buffers (R30 to R32) -/

/-- The byte at an index. -/
def Memory.get : Memory → Nat → Byte
  | [], _ => Memory.fill
  | (j, b) :: m, i => if i = j then b else Memory.get m i

/-- The buffer with the byte at an index replaced, in canonical form. -/
def Memory.set : Memory → Nat → Byte → Memory
  | [], i, v => if v = Memory.fill then [] else [(i, v)]
  | (j, b) :: m, i, v =>
    if i < j then (if v = Memory.fill then (j, b) :: m else (i, v) :: (j, b) :: m)
    else if i = j then (if v = Memory.fill then m else (i, v) :: m)
    else (j, b) :: Memory.set m i v

/-- The canonical form: indices of 12 bits, strictly rising, and no byte listed that an unlisted index reads
as. -/
abbrev Memory.wf (m : Memory) : Prop :=
  m.Pairwise (fun c e => c.1 < e.1) ∧ ∀ c ∈ m, c.2 ≠ Memory.fill ∧ c.1 < 4096

/-! ## Events (R5, R13, R28) -/

/-- `emit e`: the event joins the trace and `UPC <- UPC + 1` (R13). -/
def State.emit (s : State) (e : Event) : State :=
  { s with trace := s.trace ++ [e], upc := s.upc + 1 }

/-- R25: the effect of `W(p, l)` on the latch of pin `p`. -/
def State.setLatch (s : State) (p : Pin) (l : Level) : State :=
  match p with
  | .scl => { s with sclOut := l.bit }
  | .sda => { s with sdaOut := l.bit }

/-- The effect of `CFG(p)` on the pin driver (R85, R113). -/
def State.configurePin (s : State) (p : Pin) : State :=
  match p with
  | .scl => { s with sclMode := .openDrainOutput }
  | .sda => { s with sdaMode := .openDrainOutput }

/-- R27: what the environment puts on the data line at the `k`-th read from here: the script's entry, and a
free value where the script lists none (log 1). -/
def State.answer (s : State) (k : Nat) : Level :=
  match s.script[k]? with
  | some l => l
  | none => Config.freeLevel (s.reads + k)

/-- `l <- R(SDA)`: the level of the data line (R24, R27), kept as RXBIT's result (R69). -/
def State.sampleSda (s : State) : State :=
  let l := lineLevel s.sdaOut (s.answer 0)
  { s.emit (.r l) with rxbit := l.bit, script := s.script.tail, reads := s.reads + 1 }

/-- `v <- LD(IDX)` (R31): the byte TXBUF holds now (R39), on its way to TXBYTE through `SHR` (R75(d);
log 13). -/
def State.loadByte (s : State) : State :=
  let v := s.txbuf.get (bufferAddress s.idx)
  { s.emit (.ld s.idx v) with shr := v }

/-- `ST(IDX, SHR)` (R32). -/
def State.storeByte (s : State) : State :=
  { s.emit (.st s.idx s.shr) with rxbuf := s.rxbuf.set (bufferAddress s.idx) s.shr }

/-- `STATUS <- st ; emit RSP(st) ; BUSY <- 0` (R83). -/
def State.respond (s : State) (st : Status) : State :=
  { s.emit (.rsp st) with status := st, busy := false }

/-! ## Actions -/

/-- The effect of one action. The abort test changes control and not the state: `run` and `settle` read it. -/
def Act.apply : Act → State → State
  | .cfg p, s => (s.emit (.cfg p)).configurePin p
  | .write p l, s => (s.emit (.w p l)).setLatch p l
  | .writeTopBit, s =>
    (s.emit (.w .sda (Level.ofBit (topBit s.shr)))).setLatch .sda (Level.ofBit (topBit s.shr))
  | .delay, s => s.emit (.d s.cfg.tHalf)
  | .sample, s => s.sampleSda
  | .load, s => s.loadByte
  | .store, s => s.storeByte
  | .respond st, s => s.respond st
  | .respondAck, s => s.respond (statusOfAck s.ackf)
  | .setShr v, s => { s with shr := v }
  | .clearBitcnt, s => { s with bitcnt := 0#4 }
  | .shiftOut, s => { s with shr := shiftLeft s.shr, bitcnt := s.bitcnt + 1#4 }
  | .shiftIn, s => { s with shr := shiftInBit s.shr s.rxbit, bitcnt := s.bitcnt + 1#4 }
  | .latchAck, s => { s with ackf := ackOfBit s.rxbit }
  | .setPhase p, s => { s with phase := p }
  | .addressedIfAck, s => { s with phase := if s.ackf then .addressed else s.phase }
  | .clearIdx, s => { s with idx := 0#12 }
  | .nextIdx, s => { s with idx := s.idx + 1#12 }
  | .setInited, s => { s with inited := true }
  | .abortIfNack, s => s

/-- Whether an action is an event or lies between two events. -/
def Act.isEvent : Act → Bool
  | .cfg _ => true
  | .write _ _ => true
  | .writeTopBit => true
  | .delay => true
  | .sample => true
  | .load => true
  | .store => true
  | .respond _ => true
  | .respondAck => true
  | .setShr _ => false
  | .clearBitcnt => false
  | .shiftOut => false
  | .shiftIn => false
  | .latchAck => false
  | .setPhase _ => false
  | .addressedIfAck => false
  | .clearIdx => false
  | .nextIdx => false
  | .setInited => false
  | .abortIfNack => false

/-- STOP's actions (R67): `d0 T c1 T d1 T ; PHASE <- STOPPED`. They stand here because the abort runs them. -/
def stopActs : List Act :=
  [.write .sda .low, .delay, .write .scl .high, .delay, .write .sda .high, .delay, .setPhase .stopped]

/-- `abort NoAcknowledgment` (R84, R104): STOP, `STATUS <- NACK`, `RSP(NACK)`, `BUSY <- 0`. It is the machine's
only exception: nothing is saved and nothing vectored, and the command is over (R108). -/
def abortActs : List Act := stopActs ++ [.respond .nack]

/-- Actions one after another, none of them an abort test. -/
def applyAll : List Act → State → State
  | [], s => s
  | a :: as, s => applyAll as (a.apply s)

/-- A position run to its end. An abort test on `ACKF` = 0 leaves every later action out and aborts (R94(a)). -/
def run : List Act → State → State
  | [], s => s
  | a :: as, s =>
    if a = .abortIfNack ∧ s.ackf = false then applyAll abortActs s else run as (a.apply s)

/-- The register writes and the abort test up to the next event; that event and what follows stay to do (log 14). -/
def settle : List Act → State → State
  | [], s => { s with todo := [] }
  | a :: as, s =>
    if a.isEvent then { s with todo := a :: as }
    else if a = .abortIfNack ∧ s.ackf = false then { s with todo := abortActs }
    else settle as (a.apply s)

/-- One event of the running command, with the register writes up to the event after it. A position whose first
action is no event, which no step leads to, is settled. -/
def State.tick (s : State) : State :=
  match s.todo with
  | [] => s
  | a :: as => if a.isEvent then settle as (a.apply s) else settle (a :: as) s

/-- The running command run to its end. -/
def State.finish (s : State) : State := run s.todo { s with todo := [] }

/-! ## Acceptance (R12, R83) -/

/-- `BUSY <- 1 ; UPC <- 0`, and the trace of the command begins (R28; log 15). -/
def State.accept (s : State) : State := { s with busy := true, upc := 0, trace := [] }

/-- `OP <- … ; ADDR7 <- … ; REG8 <- … ; LEN <- …` (R12). -/
def State.latch (s : State) (op : BitVec 4) (a : Addr7) (r : Byte) (n : Index) : State :=
  { s with op := op, addr7 := a, reg8 := r, len := n }

/-- The sequencer placed at the beginning of a list of actions. -/
def State.start (s : State) (acts : List Act) : State := settle acts s

/-- R102: WRITE, READ and PROBE with `INITED` = 0 do nothing but respond NOINIT. -/
def bodyOrNoInit (s : State) (body : List Act) : List Act :=
  if s.inited then body else [.respond .noinit]

/-- R103: a word that matches no row: `STATUS <- ILLEGAL ; emit RSP(ILLEGAL)`, the latches not loaded. -/
def State.startIllegal (s : State) : State := s.accept.start [.respond .illegal]

/-! ## Reset (R29, R120, R121) -/

/-- One step with `rst` = 1: every register of the controller at its reset value, no event, the running command
dropped. What is not the controller's stays: the configuration, the pin modes, the buffers, and what the host
and the environment have in hand (log 9). -/
def State.applyReset (s : State) : State :=
  { State.reset with
    cfg := s.cfg, sclMode := s.sclMode, sdaMode := s.sdaMode, txbuf := s.txbuf, rxbuf := s.rxbuf,
    inbox := s.inbox, rstFor := s.rstFor - 1, pace := s.pace, script := s.script, reads := s.reads }

/-! ## Micro-operations run by themselves (R131; 93 U23) -/

/-- A micro-operation sequence of a test, from any latches. -/
def runUop (acts : List Act) (s : State) : Host.Outcome State Fault Refusal := .next (run acts s)

/-- The same for the six micro-operations that "require `SCL_OUT = 0` at entry" (R131): refused otherwise. -/
def runUopClockLow (acts : List Act) (s : State) : Host.Outcome State Fault Refusal :=
  if s.sclOut then .refused .clockHigh else .next (run acts s)

end Sys2Proof.Machine
end

