-- ==== Sys2Proof/Machine/Primitives.lean ====
section
/-! DEFINITION. The signal primitives START, STOP, TXBIT and RXBIT (40_signal_primitives.md). -/

namespace Sys2Proof.Machine

/-- R66: `d1 c1 T d0 T c0 ; PHASE <- STARTED`. -/
def startActs : List Act :=
  [.write .sda .high, .write .scl .high, .delay, .write .sda .low, .delay, .write .scl .low,
   .setPhase .started]

/-- R68: `d<b> T c1 T c0`. -/
def txbitActs (b : Bool) : List Act :=
  [.write .sda (Level.ofBit b), .delay, .write .scl .high, .delay, .write .scl .low]

/-- R69: `d1 c1 T r? c0`. -/
def rxbitActs : List Act :=
  [.write .sda .high, .write .scl .high, .delay, .sample, .write .scl .low]

/-- START (R66). DESIGN CHOICE (log 10): it runs from any latches. -/
def execStart (s : State) : Host.Outcome State Fault Refusal := runUop startActs s

/-- STOP (R67). -/
def execStop (s : State) : Host.Outcome State Fault Refusal := runUopClockLow stopActs s

/-- TXBIT b (R68). -/
def execTxbit (b : Bool) (s : State) : Host.Outcome State Fault Refusal := runUopClockLow (txbitActs b) s

/-- RXBIT (R69). -/
def execRxbit (s : State) : Host.Outcome State Fault Refusal := runUopClockLow rxbitActs s

end Sys2Proof.Machine
end

