-- ==== Sys2Proof/Machine/Bytes.lean ====
section
/-! DEFINITION. The byte and handshake layer: TXBYTE, RXBYTE and WACK (41_byte_handshake.md). -/

namespace Sys2Proof.Machine

/-- R76: one turn of TXBYTE's loop, `call TXBIT(SHR[7])` and the shift. -/
def sendBitActs : List Act :=
  [.writeTopBit, .delay, .write .scl .high, .delay, .write .scl .low, .shiftOut]

/-- R76: TXBYTE's loop over the eight bits of the byte in `SHR`. -/
def sendShrActs : List Act := .clearBitcnt :: (List.replicate 8 sendBitActs).flatten

/-- R76: TXBYTE v. -/
def txbyteActs (v : Byte) : List Act := .setShr v :: sendShrActs

/-- R77: one turn of RXBYTE's loop, `bit <- call RXBIT` and the shift. -/
def receiveBitActs : List Act := rxbitActs ++ [.shiftIn]

/-- R77: RXBYTE a: release data, eight bits, then the acknowledgment bit. -/
def rxbyteActs (a : Bool) : List Act :=
  [.write .sda .high, .setShr 0#8, .clearBitcnt] ++ (List.replicate 8 receiveBitActs).flatten
    ++ txbitActs (ackBit a)

/-- R79: WACK. -/
def wackActs : List Act := rxbitActs ++ [.latchAck]

/-- TXBYTE v (R76). -/
def execTxbyte (v : Byte) (s : State) : Host.Outcome State Fault Refusal := runUopClockLow (txbyteActs v) s

/-- RXBYTE a (R77). -/
def execRxbyte (a : Bool) (s : State) : Host.Outcome State Fault Refusal := runUopClockLow (rxbyteActs a) s

/-- WACK (R79). -/
def execWack (s : State) : Host.Outcome State Fault Refusal := runUopClockLow wackActs s

end Sys2Proof.Machine
end

