-- ==== Sys2Proof/Machine/Transactions.lean ====
section
/-! DEFINITION. The transaction layer: INIT, WRITE, READ and PROBE (42_transactions.md). A command's body is the
micro-operation program of R98; `start…` accepts the command (R83) and `exec…` runs it to its `RSP`. -/

namespace Sys2Proof.Machine

/-- R85: `gC gD c1 d1 ; INITED <- 1 ; PHASE <- IDLE ; RSP(OK)`. -/
def initBody : List Act :=
  [.cfg .scl, .cfg .sda, .write .scl .high, .write .sda .high, .setInited, .setPhase .idle, .respond .ok]

/-- "Send" of the step lists: TXBYTE v, WACK, and the abort test (R78, R86, R89). -/
def sendActs (v : Byte) : List Act := txbyteActs v ++ wackActs ++ [.abortIfNack]

/-- Steps 1 to 3 of WRITE and of READ (R86, R89): START, the address byte in write direction, the register
byte. -/
def addressActs (a : Addr7) (r : Byte) : List Act :=
  startActs ++ sendActs (addressByte a false) ++ [.setPhase .addressed, .setPhase .writing] ++ sendActs r

/-- R86 step 4, one turn: `v <- LD(IDX)`, TXBYTE v, WACK, the abort test, `IDX <- IDX + 1`. -/
def writeByteActs : List Act := .load :: sendShrActs ++ wackActs ++ [.abortIfNack, .nextIdx]

/-- R86 step 4: the loop over `k` bytes. -/
def writeLoop : Nat → List Act
  | 0 => []
  | k + 1 => writeByteActs ++ writeLoop k

/-- R86: the body of WRITE. -/
def writeBody (a : Addr7) (r : Byte) (n : Nat) : List Act :=
  addressActs a r ++ [.clearIdx] ++ writeLoop n ++ stopActs ++ [.respond .ok]

/-- R89 step 6, the turn for byte `i` of `n`: `PHASE <- READING` before the first, RXBYTE with
`a <- (1 if IDX + 1 < LEN else 0)`, `ST(IDX, v)`, `IDX <- IDX + 1`. -/
def readByteActs (n i : Nat) : List Act :=
  (if i = 0 then [.setPhase .reading] else []) ++ rxbyteActs (ackOperand i n) ++ [.store, .nextIdx]

/-- R89 step 6: the loop from byte `i`, `k` bytes. -/
def readLoop (n : Nat) : Nat → Nat → List Act
  | _, 0 => []
  | i, k + 1 => readByteActs n i ++ readLoop n (i + 1) k

/-- R89: the body of READ. -/
def readBody (a : Addr7) (r : Byte) (n : Nat) : List Act :=
  addressActs a r ++ startActs ++ sendActs (addressByte a true) ++ [.setPhase .addressed, .clearIdx]
    ++ readLoop n 0 n ++ stopActs ++ [.respond .ok]

/-- R92: the body of PROBE. -/
def probeBody (a : Addr7) : List Act :=
  startActs ++ txbyteActs (addressByte a false) ++ wackActs ++ [.addressedIfAck] ++ stopActs ++ [.respondAck]

/-- R83, R85: INIT accepted. -/
def startInit (s : State) : State := (s.accept.latch 0x1#4 0#7 0#8 0#12).start initBody

/-- R83, R86: WRITE accepted. The body reads the latches. -/
def startWrite (a : Addr7) (r : Byte) (n : Nat) (s : State) : State :=
  let t := s.accept.latch 0x2#4 a r (BitVec.ofNat 12 n)
  t.start (bodyOrNoInit t (writeBody t.addr7 t.reg8 t.len.toNat))

/-- R83, R89: READ accepted. -/
def startRead (a : Addr7) (r : Byte) (n : Nat) (s : State) : State :=
  let t := s.accept.latch 0x3#4 a r (BitVec.ofNat 12 n)
  t.start (bodyOrNoInit t (readBody t.addr7 t.reg8 t.len.toNat))

/-- R83, R92: PROBE accepted. -/
def startProbe (a : Addr7) (s : State) : State :=
  let t := s.accept.latch 0x4#4 a 0#8 0#12
  t.start (bodyOrNoInit t (probeBody t.addr7))

/-- INIT (R85). -/
def execInit (s : State) : Host.Outcome State Fault Refusal := .next (startInit s).finish

/-- WRITE a, r, n (R86). -/
def execWrite (a : Addr7) (r : Byte) (n : Nat) (s : State) : Host.Outcome State Fault Refusal :=
  .next (startWrite a r n s).finish

/-- READ a, r, n (R89). -/
def execRead (a : Addr7) (r : Byte) (n : Nat) (s : State) : Host.Outcome State Fault Refusal :=
  .next (startRead a r n s).finish

/-- PROBE a (R92). -/
def execProbe (a : Addr7) (s : State) : Host.Outcome State Fault Refusal := .next (startProbe a s).finish

end Sys2Proof.Machine
end

