-- ==== Sys2Proof/Machine/Dispatch.lean ====
section
/-! DEFINITION. One arm per instruction of the opcode table. -/

namespace Sys2Proof.Machine

def exec (i : Instr) (s : State) : Host.Outcome State Fault Refusal :=
  match i with
  | .init => Sys2Proof.Machine.execInit s
  | .write a r n => Sys2Proof.Machine.execWrite a r n s
  | .read a r n => Sys2Proof.Machine.execRead a r n s
  | .probe a => Sys2Proof.Machine.execProbe a s
  | .start => Sys2Proof.Machine.execStart s
  | .stop => Sys2Proof.Machine.execStop s
  | .txbit b => Sys2Proof.Machine.execTxbit b s
  | .rxbit => Sys2Proof.Machine.execRxbit s
  | .txbyte v => Sys2Proof.Machine.execTxbyte v s
  | .rxbyte a => Sys2Proof.Machine.execRxbyte a s
  | .wack => Sys2Proof.Machine.execWack s

end Sys2Proof.Machine
end

