-- ==== Sys2Proof/Machine/Accept.lean ====
section
/-! DEFINITION. What one step does with the word the sequencer takes, and with a running command (R83, R115). -/

namespace Sys2Proof.Machine

/-- A step that takes an instruction at the pace of events: a command is accepted and its first event is the
next step's; a micro-operation of a test runs whole (log 11). -/
def acceptInstr (i : Instr) (s : State) : Host.Outcome State Fault Refusal :=
  match i with
  | .init => .next (startInit s)
  | .write a r n => .next (startWrite a r n s)
  | .read a r n => .next (startRead a r n s)
  | .probe a => .next (startProbe a s)
  | .start => execStart s
  | .stop => execStop s
  | .txbit b => execTxbit b s
  | .rxbit => execRxbit s
  | .txbyte v => execTxbyte v s
  | .rxbyte a => execRxbyte a s
  | .wack => execWack s

/-- A step that takes an instruction. -/
def takeInstr (i : Instr) (s : State) : Host.Outcome State Fault Refusal :=
  match s.pace with
  | .whole => exec i s
  | .event => acceptInstr i s

/-- A running command at the machine's pace: its next event, or all that is left of it. -/
def advance (s : State) : State :=
  match s.pace with
  | .whole => s.finish
  | .event => s.tick

/-- A word that names no instruction: an illegal command word is answered with `RSP(ILLEGAL)` (R103), a
UOP12 word that names no micro-operation is refused (R59; 93 U22). -/
def takeBadWord (w : PortWord) (s : State) : Host.Outcome State Fault Refusal :=
  match w, s.pace with
  | .cmd _, .whole => .next s.startIllegal.finish
  | .cmd _, .event => .next s.startIllegal
  | .uop _, _ => .refused .noMicroOperation

/-- A step that takes a word. -/
def takeWord (w : PortWord) (s : State) : Host.Outcome State Fault Refusal :=
  match decode w with
  | .ok i => takeInstr i s
  | .rejected _ => takeBadWord w s

/-- A step with `BUSY` = 1: the word presented is held off (R115), the running command goes on. -/
def stepBusy (s : State) : Host.Outcome State Fault Refusal :=
  match s.todo with
  | [] => .fault .positionLost
  | _ :: _ => .next (advance s)

/-- A step with `BUSY` = 0: the word presented is accepted; with none presented the controller waits (R117). -/
def stepReady (s : State) : Host.Outcome State Fault Refusal :=
  match s.inbox with
  | [] => .next s
  | w :: rest => takeWord w { s with inbox := rest }

/-- A step of a machine whose configuration is admitted: reset overrides everything (R107(e), R121). -/
def stepAdmitted (s : State) : Host.Outcome State Fault Refusal :=
  if s.rstFor ≠ 0 then .next s.applyReset
  else if s.busy then stepBusy s
  else stepReady s

/-- `s` with a word presented so that the next step takes it: `rst` at 0, no command running, the word first
in line, and the pace at which a step runs it whole. -/
def State.present (s : State) (w : PortWord) : State :=
  { s with rstFor := 0, busy := false, todo := [], pace := .whole, inbox := w :: s.inbox }

end Sys2Proof.Machine
end

