-- ==== Sys2Proof/Machine/Step.lean ====
section
/-! DEFINITION. One step of the machine, and the state whose next step runs a given word. -/

namespace Sys2Proof.Machine

/-- One step. A configuration whose two pins are one is not admitted (93 U28). -/
def step (s : State) : Host.Outcome State Fault Refusal :=
  if s.cfg.ok then stepAdmitted s else .refused .pinsNotDistinct

/-- `s` with the word `w` of the opcode table presented to the sequencer, so that the next step runs it
(log 7: a program comes to run by the host presenting its words; from reset with nothing presented the
controller waits). -/
def State.withFetchWord (s : State) (nbits w : Nat) : State := s.present (tableWord nbits w)

end Sys2Proof.Machine
end

