-- ==== Sys2Proof/Machine/Observe.lean ====
section
/-! DEFINITION. What can be observed of a run and of a state: kinds of events and their counts (R5, R97), the line
waveform (R7), the symbols and frames on the wire (R46 to R52), the calls on the platform (R53), the ports
(R112, R113, R115), and the micro-operations a command expands to (R98). No step reads any of it. -/

namespace Sys2Proof.Machine

/-! ## Kinds of events (R5) -/

/-- A platform event goes to the pin driver or to the delay provider. -/
def Event.isPlatform : Event → Bool
  | .cfg _ => true
  | .w _ _ => true
  | .r _ => true
  | .d _ => true
  | .ld _ _ => false
  | .st _ _ => false
  | .rsp _ => false

def Event.isDelay : Event → Bool
  | .d _ => true
  | _ => false

def Event.isRead : Event → Bool
  | .r _ => true
  | _ => false

def Event.isLoad : Event → Bool
  | .ld _ _ => true
  | _ => false

def Event.isStore : Event → Bool
  | .st _ _ => true
  | _ => false

def Event.isRsp : Event → Bool
  | .rsp _ => true
  | _ => false

/-- The columns of R97's table, in its order: platform events, `D`, `R`, `LD`, `ST`. -/
def eventCounts (es : List Event) : List Nat :=
  [es.countP Event.isPlatform, es.countP Event.isDelay, es.countP Event.isRead, es.countP Event.isLoad,
   es.countP Event.isStore]

/-! ## The line waveform (R7) -/

/-- The (`SCL_OUT`, `SDA_OUT`) pairs at each `D` and each `R` of a trace that begins with these latches. -/
def waveform (scl sda : Bool) : List Event → List (Bool × Bool)
  | [] => []
  | .w .scl l :: es => waveform l.bit sda es
  | .w .sda l :: es => waveform scl l.bit es
  | .d _ :: es => (scl, sda) :: waveform scl sda es
  | .r _ :: es => (scl, sda) :: waveform scl sda es
  | .cfg _ :: es => waveform scl sda es
  | .ld _ _ :: es => waveform scl sda es
  | .st _ _ :: es => waveform scl sda es
  | .rsp _ :: es => waveform scl sda es

/-! ## The wire (R46 to R52) -/

/-- What a clock line and a data line carry. -/
inductive WireSym where
  /-- The data line falls while the clock line is HIGH (R47). -/
  | start
  /-- The data line rises while the clock line is HIGH (R48). -/
  | stop
  /-- A bit cell in which the controller holds the data line at its own bit (R49). -/
  | sent (b : Bool)
  /-- A bit cell in which the controller samples the data line (R49). -/
  | sampled (b : Bool)
deriving DecidableEq, Repr

/-- The symbols of a trace that begins with these latches. `cell` is the clock pulse under way, with the
sample taken in it; a START or STOP edge in a pulse makes it no bit cell. -/
def wireFrom (scl sda : Bool) (cell : Option (Option Level)) : List Event → List WireSym
  | [] => []
  | .w .scl .high :: es => wireFrom true sda (if scl then cell else some none) es
  | .w .scl .low :: es =>
    match cell with
    | none => wireFrom false sda none es
    | some none => .sent sda :: wireFrom false sda none es
    | some (some l) => .sampled l.bit :: wireFrom false sda none es
  | .w .sda .low :: es =>
    if scl && sda then .start :: wireFrom scl false none es else wireFrom scl false cell es
  | .w .sda .high :: es =>
    if scl && !sda then .stop :: wireFrom scl true none es else wireFrom scl true cell es
  | .r l :: es => wireFrom scl sda (cell.map fun _ => some l) es
  | .d _ :: es => wireFrom scl sda cell es
  | .cfg _ :: es => wireFrom scl sda cell es
  | .ld _ _ :: es => wireFrom scl sda cell es
  | .st _ _ :: es => wireFrom scl sda cell es
  | .rsp _ :: es => wireFrom scl sda cell es

/-- The symbols a trace puts on an idle bus. -/
def wire (es : List Event) : List WireSym := wireFrom true true none es

/-- The letters of R52's frames. -/
inductive FrameItem where
  /-- `S`, and `Sr` where no `P` came before it. -/
  | start
  /-- `P`. -/
  | stop
  /-- `[x]`, and the acknowledgment the controller sampled after it: `A` (true) or `N` (false). -/
  | sentByte (x : Byte) (acked : Bool)
  /-- `(x)`, and the acknowledgment the controller drove after it: `a` (true) or `n` (false). -/
  | gotByte (x : Byte) (acked : Bool)
  /-- Nine bit cells that are no byte frame (R49). -/
  | noFrame
deriving DecidableEq, Repr

/-- The byte of eight bits, the first most significant (R34(a), R49). -/
def byteOfBits (bits : List Bool) : Byte := bits.foldl shiftInBit 0#8

/-- The bits of the cells the controller sent, if it sent them all. -/
def sentBits : List WireSym → Option (List Bool)
  | [] => some []
  | .sent b :: cs => (sentBits cs).map (b :: ·)
  | .sampled _ :: _ => none
  | .start :: _ => none
  | .stop :: _ => none

/-- The bits of the cells the controller sampled, if it sampled them all. -/
def sampledBits : List WireSym → Option (List Bool)
  | [] => some []
  | .sampled b :: cs => (sampledBits cs).map (b :: ·)
  | .sent _ :: _ => none
  | .start :: _ => none
  | .stop :: _ => none

/-- A byte frame: eight cells and the acknowledgment cell, LOW meaning acknowledged (R49, R51). -/
def byteFrame (cells : List WireSym) (ack : WireSym) : FrameItem :=
  match sentBits cells, sampledBits cells, ack with
  | some bits, _, .sampled k => .sentByte (byteOfBits bits) (!k)
  | _, some bits, .sent k => .gotByte (byteOfBits bits) (!k)
  | _, _, _ => .noFrame

/-- The frame of a list of symbols, `cells` being the bit cells since the last byte frame or edge. -/
def frameFrom (cells : List WireSym) : List WireSym → List FrameItem
  | [] => []
  | .start :: cs => .start :: frameFrom [] cs
  | .stop :: cs => .stop :: frameFrom [] cs
  | .sent b :: cs =>
    if cells.length = 8 then byteFrame cells (.sent b) :: frameFrom [] cs
    else frameFrom (cells ++ [.sent b]) cs
  | .sampled b :: cs =>
    if cells.length = 8 then byteFrame cells (.sampled b) :: frameFrom [] cs
    else frameFrom (cells ++ [.sampled b]) cs

/-- The transaction frame a trace puts on an idle bus (R52). -/
def frame (es : List Event) : List FrameItem := frameFrom [] (wire es)

/-! ## The platform (R53, R112, R113) -/

/-- The four capabilities the controller consumes. -/
inductive PlatformCall where
  /-- `pin_configure(pin, mode=open_drain_output)`. -/
  | pinConfigure (pin : Nat)
  /-- `pin_write(pin, level)`. -/
  | pinWrite (pin : Nat) (l : Level)
  /-- `pin_read(pin) -> level`. -/
  | pinRead (pin : Nat) (answer : Level)
  /-- `delay_microseconds(n)`. -/
  | delayMicroseconds (n : BitVec 16)
deriving DecidableEq, Repr

/-- R4: the identifier of a line's pin. -/
def pinId (c : Config) : Pin → Nat
  | .scl => c.sclPin
  | .sda => c.sdaPin

/-- R53: the call an event makes on the platform; buffer events and responses make none. -/
def platformCall (c : Config) : Event → Option PlatformCall
  | .cfg p => some (.pinConfigure (pinId c p))
  | .w p l => some (.pinWrite (pinId c p) l)
  | .r l => some (.pinRead c.sdaPin l)
  | .d n => some (.delayMicroseconds n)
  | .ld _ _ => none
  | .st _ _ => none
  | .rsp _ => none

/-! ## The ports (R112, R113, R115) -/

/-- `cmd_ready = ¬BUSY` (R115). -/
def State.cmdReady (s : State) : Bool := !s.busy

/-- `cmd_word`, where `cmd_valid` = 1: the CMD32 word first in line (R115). -/
def State.cmdWord? (s : State) : Option (BitVec 32) :=
  match s.inbox with
  | .cmd w :: _ => some w
  | .uop _ :: _ => none
  | [] => none

/-- `cmd_valid` (R115). -/
def State.cmdValid (s : State) : Bool := s.cmdWord?.isSome

/-- R115: a command is accepted at a step where `cmd_valid` = 1 and `cmd_ready` = 1; not under reset (R107(e)). -/
def State.accepts (s : State) : Bool := s.cmdValid && s.cmdReady && decide (s.rstFor = 0)

/-- The output ports. A port that means something only with a pulse is `some` of its value in a step that
pulses it and `none` in any other. -/
structure Ports where
  /-- `cmd_ready`. -/
  cmdReady : Bool
  /-- `busy`. -/
  busy : Bool
  /-- `phase`. -/
  phase : BitVec 3
  /-- `scl_o`. -/
  sclO : Bool
  /-- `sda_o`. -/
  sdaO : Bool
  /-- `scl_cfg`. -/
  sclCfg : Bool
  /-- `sda_cfg`. -/
  sdaCfg : Bool
  /-- `dly_us`, with `dly_req`. -/
  delay : Option (BitVec 16)
  /-- `tx_idx`, with `tx_req`. -/
  txRead : Option Index
  /-- `rx_idx` and `rx_data`, with `rx_we`. -/
  rxWrite : Option (Index × Byte)
  /-- `rsp_status`, with `rsp_valid`. -/
  rsp : Option (BitVec 2)
  /-- `STATUS`, readable after the response. -/
  status : BitVec 2
deriving DecidableEq, Repr

/-- The ports in the state `s` after a step that emitted `e`, if it emitted one. -/
def ports (s : State) (e : Option Event) : Ports where
  cmdReady := s.cmdReady
  busy := s.busy
  phase := s.phase.code
  sclO := s.sclOut
  sdaO := s.sdaOut
  sclCfg := decide (e = some (.cfg .scl))
  sdaCfg := decide (e = some (.cfg .sda))
  delay := match e with
    | some (.d n) => some n
    | _ => none
  txRead := match e with
    | some (.ld i _) => some i
    | _ => none
  rxWrite := match e with
    | some (.st i v) => some (i, v)
    | _ => none
  rsp := match e with
    | some (.rsp st) => some st.code
    | _ => none
  status := s.status.code

/-! ## Expansion into micro-operations (R98) -/

/-- The two micro-operations of a transmitted byte frame (R81). -/
def sendByte (v : Byte) : List Instr := [.txbyte v, .wack]

/-- R98: the micro-operations of a command whose every byte is acknowledged, `data` being TXBUF's bytes. INIT and
the micro-operations expand to nothing here: INIT is no micro-operation program. -/
def expansion (i : Instr) (data : List Byte) : List Instr :=
  match i with
  | .init => []
  | .write a r _ => .start :: sendByte (addressByte a false) ++ sendByte r ++ data.flatMap sendByte ++ [.stop]
  | .read a r n => .start :: sendByte (addressByte a false) ++ sendByte r ++ .start
      :: sendByte (addressByte a true) ++ (List.range n).map (fun j => .rxbyte (ackOperand j n)) ++ [.stop]
  | .probe a => .start :: sendByte (addressByte a false) ++ [.stop]
  | .start => []
  | .stop => []
  | .txbit _ => []
  | .rxbit => []
  | .txbyte _ => []
  | .rxbyte _ => []
  | .wack => []

/-- Instructions one after another. -/
def execAll : List Instr → State → Host.Outcome State Fault Refusal
  | [], s => .next s
  | i :: is, s =>
    match exec i s with
    | .next t => execAll is t
    | .fault r => .fault r
    | .refused r => .refused r

end Sys2Proof.Machine
end

