-- ==== Sys2Proof/Safety.lean ====
section
/-! DEFINITION. The terms statements use: the event lists of the micro-operations as the spec writes them out, the
answers of the environment to a run, and the invariants. -/

namespace Sys2Proof.Machine

/-! ## Event lists, `t` being `T_HALF` -/

/-- `d1 c1 T d0 T c0` (R66). -/
def startTrace (t : BitVec 16) : List Event :=
  [.w .sda .high, .w .scl .high, .d t, .w .sda .low, .d t, .w .scl .low]

/-- `d0 T c1 T d1 T` (R67). -/
def stopTrace (t : BitVec 16) : List Event :=
  [.w .sda .low, .d t, .w .scl .high, .d t, .w .sda .high, .d t]

/-- `d<b> T c1 T c0` (R68). -/
def bitTrace (t : BitVec 16) (b : Bool) : List Event :=
  [.w .sda (Level.ofBit b), .d t, .w .scl .high, .d t, .w .scl .low]

/-- `d1 c1 T r? c0`, the read answered `l` (R69, R79). -/
def sampleTrace (t : BitVec 16) (l : Level) : List Event :=
  [.w .sda .high, .w .scl .high, .d t, .r l, .w .scl .low]

/-- The bits of a byte in the order they are sent (R34(a), R76). -/
def msbFirst (v : Byte) : List Bool :=
  [v.getLsbD 7, v.getLsbD 6, v.getLsbD 5, v.getLsbD 4, v.getLsbD 3, v.getLsbD 2, v.getLsbD 1, v.getLsbD 0]

/-- The 40 events of TXBYTE v (R76). -/
def byteTrace (t : BitVec 16) (v : Byte) : List Event := (msbFirst v).flatMap (bitTrace t)

/-- The 46 events of RXBYTE a, the eight reads answered `ls` (R77). -/
def receiveTrace (t : BitVec 16) (ls : List Level) (a : Bool) : List Event :=
  .w .sda .high :: ls.flatMap (sampleTrace t) ++ bitTrace t (!a)

/-- The 45 events of a transmitted byte frame whose acknowledgment is answered `l` (R81). -/
def sendTrace (t : BitVec 16) (v : Byte) (l : Level) : List Event := byteTrace t v ++ sampleTrace t l

/-! ## The environment's answers -/

/-- The answers to the reads number `k`, `k+1`, …, `k+n-1` from here (R27). -/
def State.answers (s : State) (k n : Nat) : List Level := (List.range n).map fun j => s.answer (k + j)

/-- The byte the eight reads from number `k` on assemble, the first most significant (R77). -/
def State.byteRead (s : State) (k : Nat) : Byte := byteOfBits ((s.answers k 8).map Level.bit)

/-- Byte `i` of TXBUF. -/
def State.txByte (s : State) (i : Nat) : Byte := s.txbuf.get i

/-- RXBUF after the bytes 0 to `n-1` are stored, in order (R32, R89). -/
def storeAll (m : Memory) (v : Nat → Byte) (n : Nat) : Memory :=
  (List.range n).foldl (fun m i => m.set i (v i)) m

/-! ## What a WRITE and a READ emit -/

/-- The events of the `j`-th byte WRITE transmits, acknowledged with `l`: the address byte, the register byte, then
the data bytes, each read from TXBUF just before (R86). -/
def writeByteTrace (s : State) (a : Addr7) (r : Byte) (l : Level) : Nat → List Event
  | 0 => sendTrace s.cfg.tHalf (addressByte a false) l
  | 1 => sendTrace s.cfg.tHalf r l
  | i + 2 => .ld (BitVec.ofNat 12 i) (s.txByte i) :: sendTrace s.cfg.tHalf (s.txByte i) l

/-- The events of a WRITE up to its first `k` transmitted bytes, all acknowledged. -/
def writeTrace (s : State) (a : Addr7) (r : Byte) (k : Nat) : List Event :=
  startTrace s.cfg.tHalf ++ (List.range k).flatMap (writeByteTrace s a r .low)

/-- The events of the `j`-th byte READ transmits, acknowledged with `l`: the address byte in write direction, the
register byte, then after the repeated START the address byte in read direction (R89). -/
def readSendTrace (s : State) (a : Addr7) (r : Byte) (l : Level) : Nat → List Event
  | 0 => sendTrace s.cfg.tHalf (addressByte a false) l
  | 1 => sendTrace s.cfg.tHalf r l
  | _ => startTrace s.cfg.tHalf ++ sendTrace s.cfg.tHalf (addressByte a true) l

/-- The events of a READ up to its first `k` transmitted bytes (at most three), all acknowledged. -/
def readTrace (s : State) (a : Addr7) (r : Byte) (k : Nat) : List Event :=
  startTrace s.cfg.tHalf ++ (List.range k).flatMap (readSendTrace s a r .low)

/-- The events of byte `i` of the `n` bytes READ receives: RXBYTE, acknowledged but for the last, and the store. -/
def readByteTrace (s : State) (n i : Nat) : List Event :=
  receiveTrace s.cfg.tHalf (s.answers (3 + 8 * i) 8) (decide (i + 1 < n))
    ++ [.st (BitVec.ofNat 12 i) (s.byteRead (3 + 8 * i))]

/-! ## Outcomes -/

/-- The instruction completes, and its next state is as said. -/
def Completes (i : Instr) (s : State) (post : State → Prop) : Prop := ∃ t, exec i s = .next t ∧ post t

/-- The first `k` reads are answered LOW: the first `k` transmitted bytes are acknowledged (R51, R79). -/
def AllAcked (s : State) (k : Nat) : Prop := ∀ j < k, s.answer j = .low

/-- Transmitted byte `k` is the first that is not acknowledged (R101). -/
def FirstNack (s : State) (k : Nat) : Prop := AllAcked s k ∧ s.answer k = .high

/-- The word `w` is first in line, no command runs, and neither reset nor the configuration is in the way. -/
def Taking (s : State) (w : PortWord) (rest : List PortWord) : Prop :=
  s.cfg.ok = true ∧ s.rstFor = 0 ∧ s.busy = false ∧ s.inbox = w :: rest

/-- What acceptance leaves for WRITE, READ and PROBE when `INITED` = 0 (R83, R102). -/
def State.refusedNoInit (s : State) (op : BitVec 4) (a : Addr7) (r : Byte) (n : Index) : State :=
  { s with
    busy := false, status := .noinit, op := op, addr7 := a, reg8 := r, len := n, upc := 1,
    trace := [.rsp .noinit], todo := [] }

/-- The `LD` events of a trace, in order. -/
def loads : List Event → List (Index × Byte)
  | [] => []
  | .ld i v :: es => (i, v) :: loads es
  | .cfg _ :: es => loads es
  | .w _ _ :: es => loads es
  | .r _ :: es => loads es
  | .d _ :: es => loads es
  | .st _ _ :: es => loads es
  | .rsp _ :: es => loads es

/-- The `ST` events of a trace, in order. -/
def stores : List Event → List (Index × Byte)
  | [] => []
  | .st i v :: es => (i, v) :: stores es
  | .cfg _ :: es => stores es
  | .w _ _ :: es => stores es
  | .r _ :: es => stores es
  | .d _ :: es => stores es
  | .ld _ _ :: es => stores es
  | .rsp _ :: es => stores es

/-- The `j`-th byte a WRITE transmits. -/
def sentByWrite (s : State) (a : Addr7) (r : Byte) : Nat → Byte
  | 0 => addressByte a false
  | 1 => r
  | i + 2 => s.txByte i

/-! ## The data line while the clock is HIGH (R23(d), R131) -/

/-- The levels written to the data line between a `W(SCL, HIGH)` and the next `W(SCL, LOW)`; `high` says whether the
trace begins there. -/
def clockHighWrites (high : Bool) : List Event → List Level
  | [] => []
  | .w .scl .high :: es => clockHighWrites true es
  | .w .scl .low :: es => clockHighWrites false es
  | .w .sda l :: es => if high then l :: clockHighWrites high es else clockHighWrites high es
  | .cfg _ :: es => clockHighWrites high es
  | .r _ :: es => clockHighWrites high es
  | .d _ :: es => clockHighWrites high es
  | .ld _ _ :: es => clockHighWrites high es
  | .st _ _ :: es => clockHighWrites high es
  | .rsp _ :: es => clockHighWrites high es

/-- An event with the argument of its delay taken out (R71). -/
def Event.withoutDelay : Event → Event
  | .d _ => .d 0#16
  | .cfg p => .cfg p
  | .w p l => .w p l
  | .r l => .r l
  | .ld i v => .ld i v
  | .st i v => .st i v
  | .rsp s => .rsp s

/-! ## Invariants -/

/-- Both lines released (R9 "idle"). -/
def State.idle (s : State) : Bool := s.sclOut && s.sdaOut

/-- The actions that end a command. -/
def Act.isResponse : Act → Bool
  | .respond _ => true
  | .respondAck => true
  | _ => false

/-- A position of the sequencer: a response ends it, and only ends it. -/
def endsInResponse : List Act → Bool
  | [] => false
  | a :: as => if a.isResponse then as.isEmpty else endsInResponse as

/-- What holds of every state whatever words are presented: canonical buffers (R30), `UPC` the number of events of
the trace (R13, R28), and `BUSY` = 1 exactly while a command has a response still to come (R16, R83), its next
action then being an event. -/
structure State.Sound (s : State) : Prop where
  txbuf : s.txbuf.wf
  rxbuf : s.rxbuf.wf
  upc : s.upc = s.trace.length
  running : s.busy = true → endsInResponse s.todo = true
  next : s.busy = true → ∃ a as, s.todo = a :: as ∧ a.isEvent = true
  ready : s.busy = false → s.todo = []

/-- What holds where only commands are presented, micro-operations being internal (R59): with `BUSY` = 0 the lines
are idle and no transaction is in progress (R23(a), (e), R105), and a running command, run on, ends so. -/
structure State.BusSound (s : State) : Prop extends s.Sound where
  commands : ∀ w ∈ s.inbox, ∃ c, w = .cmd c
  idle : s.busy = false → s.idle = true
  phase : s.busy = false → s.phase.noTransaction = true
  endsIdle : s.busy = true → s.finish.idle = true
  endsPhase : s.busy = true → s.finish.phase.noTransaction = true

/-- Two states that differ in the ephemeral registers at most (R22). -/
def State.sameButEphemeral (s t : State) : Prop :=
  t = { s with
    op := t.op, addr7 := t.addr7, reg8 := t.reg8, len := t.len, idx := t.idx, shr := t.shr,
    bitcnt := t.bitcnt, ackf := t.ackf, rxbit := t.rxbit }

end Sys2Proof.Machine
end

