-- ==== Sys2Proof/Certificates/Slice0/Obligations.lean ====
section
/-! DEFINITION. The statements for the provers, one for each rule of the spec that says what an instruction or the
machine does. -/

open Sys2Proof Sys2Proof.Machine

/-! ## Words -/

/-- 95_test_vectors.md §2 (V1) and 30_encoding.md R59: words written out from the encodings, and what they are. -/
def Obligations.SpecWordsDecode : Prop :=
  decode (.cmd 0x10000000#32) = .ok .init ∧
  decode (.cmd 0x25010002#32) = .ok (.write 0x50#7 0x10#8 2) ∧
  decode (.cmd 0x35010003#32) = .ok (.read 0x50#7 0x10#8 3) ∧
  decode (.cmd 0x45000000#32) = .ok (.probe 0x50#7) ∧
  decode (.cmd 0x2D010002#32) = .rejected .zBitSet ∧
  decode (.uop 0x100#12) = .ok .start ∧
  decode (.uop 0x200#12) = .ok .stop ∧
  decode (.uop 0x301#12) = .ok (.txbit true) ∧
  decode (.uop 0x400#12) = .ok .rxbit ∧
  decode (.uop 0x5A0#12) = .ok (.txbyte 0xA0#8) ∧
  decode (.uop 0x601#12) = .ok (.rxbyte true) ∧
  decode (.uop 0x700#12) = .ok .wack ∧
  decode (.uop 0x302#12) = .rejected .argBitSet

/-- R55, R56, R59, R63: no bit of an operand is lost: decoding the word of any instruction gives it back. -/
def Obligations.DecodeOfEncode : Prop :=
  ∀ i : Instr, i.wellFormed = true → decode (encode i) = .ok i

/-- R55, R56, R59: each word has one meaning: the instruction a word decodes to is well formed and encodes to it. -/
def Obligations.EncodeOfDecode : Prop :=
  ∀ (w : PortWord) (i : Instr), decode w = .ok i → i.wellFormed = true ∧ encode i = w

/-- R56: a word is a command exactly when it selects a row, and no word selects two rows. -/
def Obligations.CommandWordsSelectOneRow : Prop :=
  (∀ w : BitVec 32, (∃ i, decodeCmd w = .ok i) ↔ ∃ row ∈ cmdRows, w &&& row.mask = row.pattern) ∧
  cmdRows.Pairwise (fun p q => ∀ w : BitVec 32, ¬ (w &&& p.mask = p.pattern ∧ w &&& q.mask = q.pattern))

/-- R57: which command words are illegal, by their fields. -/
def Obligations.IllegalCommandWords : Prop :=
  ∀ w : BitVec 32,
    (∃ e, decodeCmd w = .rejected e) ↔
      cmdOp w = 0x0#4 ∨ 0x5#4 ≤ cmdOp w ∨ cmdZ w = 1#1 ∨
      (cmdOp w = 0x1#4 ∧ w.extractLsb' 0 28 ≠ 0#28) ∨
      (cmdOp w = 0x4#4 ∧ w.extractLsb' 0 20 ≠ 0#20)

/-- R59: which UOP12 words name a micro-operation. -/
def Obligations.MicroOperationWords : Prop :=
  (∀ w : BitVec 12, (∃ i, decodeUop w = .ok i) ↔ ∃ row ∈ uopRows, w &&& row.mask = row.pattern) ∧
  (∀ w : BitVec 12, (∃ e, decodeUop w = .rejected e) ↔
    uopCode w = 0x0#4 ∨ 0x8#4 ≤ uopCode w ∨
    (uopCode w ∈ [0x1#4, 0x2#4, 0x4#4, 0x7#4] ∧ uopArg w ≠ 0#8) ∨
    (uopCode w ∈ [0x3#4, 0x6#4] ∧ w.extractLsb' 1 7 ≠ 0#7))

/-- R50: the address byte is the address in bits 7..1 and the direction in bit 0. -/
def Obligations.AddressByteIsAddressAndDirection : Prop :=
  ∀ (a : Addr7) (rw : Bool),
    addressByte a rw = a ++ BitVec.ofBool rw ∧
    (addressByte a rw).toNat = (2 * a.toNat + (if rw then 1 else 0)) % 256

/-- R61: the assembler forms of the commands, and the assembly error of a number outside its range. -/
def Obligations.AssemblerFormsOfCommands : Prop :=
  ∀ a r n : Nat,
    assemble .init = some (.cmd 0x10000000#32) ∧
    assemble (.write a r n) =
      (if a < 128 ∧ r < 256 ∧ n < 4096 then
        some (.cmd (BitVec.ofNat 32 (0x20000000 + a * 2 ^ 20 + r * 2 ^ 12 + n))) else none) ∧
    assemble (.read a r n) =
      (if a < 128 ∧ r < 256 ∧ n < 4096 then
        some (.cmd (BitVec.ofNat 32 (0x30000000 + a * 2 ^ 20 + r * 2 ^ 12 + n))) else none) ∧
    assemble (.probe a) =
      (if a < 128 then some (.cmd (BitVec.ofNat 32 (0x40000000 + a * 2 ^ 20))) else none)

/-! ## Events and lines -/

/-- R25: a `W(p, l)` sets the latch of `p` to `l = HIGH` and changes nothing else, whatever the latch held. The event
joins the trace and `UPC` (R13, R28). -/
def Obligations.PinWriteSetsItsLatch : Prop :=
  ∀ (s : State) (l : Level),
    Act.apply (.write .scl l) s =
      { s with sclOut := decide (l = .high), trace := s.trace ++ [.w .scl l], upc := s.upc + 1 } ∧
    Act.apply (.write .sda l) s =
      { s with sdaOut := decide (l = .high), trace := s.trace ++ [.w .sda l], upc := s.upc + 1 }

/-- R24, R27, R69: the level read is LOW when the data latch is 0 or the environment holds the line LOW, and HIGH
otherwise; it becomes RXBIT's result and takes one answer. -/
def Obligations.ReadSamplesTheLine : Prop :=
  ∀ s : State, ∃ l : Level,
    (l = .low ↔ s.sdaOut = false ∨ s.answer 0 = .low) ∧
    Act.apply .sample s = { s with
      rxbit := decide (l = .high), script := s.script.drop 1, reads := s.reads + 1,
      trace := s.trace ++ [.r l], upc := s.upc + 1 }

/-! ## Micro-operations -/

/-- R66: START from its precondition (idle, or the repeated-start point). -/
def Obligations.StartEvents : Prop :=
  encode .start = .uop 0x100#12 ∧
  ∀ s : State, s.sdaOut = true →
    exec .start s = .next { s with
      sclOut := false, sdaOut := false, phase := .started,
      trace := s.trace ++ startTrace s.cfg.tHalf, upc := s.upc + 6 }

/-- MODEL'S CHOICE (log 10): outside R66's precondition, with `SDA_OUT` = 0, START runs the same event list. -/
def Obligations.StartEventsFromDataLow : Prop :=
  ∀ s : State, s.sdaOut = false →
    exec .start s = .next { s with
      sclOut := false, sdaOut := false, phase := .started,
      trace := s.trace ++ startTrace s.cfg.tHalf, upc := s.upc + 6 }

/-- R67: STOP. -/
def Obligations.StopEvents : Prop :=
  encode .stop = .uop 0x200#12 ∧
  ∀ s : State, s.sclOut = false →
    exec .stop s = .next { s with
      sclOut := true, sdaOut := true, phase := .stopped,
      trace := s.trace ++ stopTrace s.cfg.tHalf, upc := s.upc + 6 }

/-- R68: TXBIT b. -/
def Obligations.TxbitEvents : Prop :=
  (encode (.txbit false) = .uop 0x300#12 ∧ encode (.txbit true) = .uop 0x301#12) ∧
  ∀ (b : Bool) (s : State), s.sclOut = false →
    exec (.txbit b) s = .next { s with
      sclOut := false, sdaOut := b,
      trace := s.trace ++ bitTrace s.cfg.tHalf b, upc := s.upc + 5 }

/-- R69: RXBIT; the answer is the environment's, whatever it is. The field `rxbit` is where the model keeps the
result (log 12), `script` and `reads` where it keeps the environment's answers (log 1). -/
def Obligations.RxbitEvents : Prop :=
  encode .rxbit = .uop 0x400#12 ∧
  ∀ s : State, s.sclOut = false →
    exec .rxbit s = .next { s with
      sclOut := false, sdaOut := true, rxbit := decide (s.answer 0 = .high),
      script := s.script.drop 1, reads := s.reads + 1,
      trace := s.trace ++ sampleTrace s.cfg.tHalf (s.answer 0), upc := s.upc + 5 }

/-- R76: TXBYTE v sends bit 7 first and bit 0 last. -/
def Obligations.TxbyteEvents : Prop :=
  ∀ (v : Byte) (s : State),
    encode (.txbyte v) = .uop (0x5#4 ++ v) ∧
    (s.sclOut = false →
      exec (.txbyte v) s = .next { s with
        sclOut := false, sdaOut := v.getLsbD 0, shr := 0#8, bitcnt := 8#4,
        trace := s.trace ++ byteTrace s.cfg.tHalf v, upc := s.upc + 40 })

/-- R77: RXBYTE a assembles the eight answers, the first in bit 7, and drives the acknowledgment bit (`rxbit`,
`script`, `reads`: logs 12, 1). -/
def Obligations.RxbyteEvents : Prop :=
  (encode (.rxbyte false) = .uop 0x600#12 ∧ encode (.rxbyte true) = .uop 0x601#12) ∧
  ∀ (a : Bool) (s : State), s.sclOut = false →
    ∃ v : Byte,
      (∀ j < 8, v.getLsbD (7 - j) = decide (s.answer j = .high)) ∧
      exec (.rxbyte a) s = .next { s with
        sclOut := false, sdaOut := !a, shr := v, bitcnt := 8#4, rxbit := decide (s.answer 7 = .high),
        script := s.script.drop 8, reads := s.reads + 8,
        trace := s.trace ++ receiveTrace s.cfg.tHalf (s.answers 0 8) a, upc := s.upc + 46 }

/-- R79: WACK samples once; `ACKF` is 1 when the level is LOW (`rxbit`, `script`, `reads`: logs 12, 1). -/
def Obligations.WackEvents : Prop :=
  encode .wack = .uop 0x700#12 ∧
  ∀ s : State, s.sclOut = false →
    exec .wack s = .next { s with
      sclOut := false, sdaOut := true, ackf := decide (s.answer 0 = .low),
      rxbit := decide (s.answer 0 = .high), script := s.script.drop 1, reads := s.reads + 1,
      trace := s.trace ++ sampleTrace s.cfg.tHalf (s.answer 0), upc := s.upc + 5 }

/-- R131, 93 U23: six micro-operations require `SCL_OUT` = 0 at entry and are refused otherwise. -/
def Obligations.ClockHighIsRefused : Prop :=
  ∀ (s : State) (i : Instr), s.sclOut = true →
    (i = .stop ∨ (∃ b, i = .txbit b) ∨ i = .rxbit ∨ (∃ v, i = .txbyte v) ∨ (∃ a, i = .rxbyte a) ∨ i = .wack) →
    exec i s = .refused .clockHigh

/-- R23(c), R80: a micro-operation that completes leaves `SCL_OUT` = 0, STOP alone excepted, and the data latch as
R70 and R80 tabulate it. -/
def Obligations.MicroOperationsLeaveLatches : Prop :=
  ∀ (s t : State) (i : Instr), i.isCommand = false → exec i s = .next t →
    (i = .start → t.sclOut = false ∧ t.sdaOut = false) ∧
    (i = .stop → t.sclOut = true ∧ t.sdaOut = true) ∧
    (∀ b, i = .txbit b → t.sclOut = false ∧ t.sdaOut = b) ∧
    (i = .rxbit → t.sclOut = false ∧ t.sdaOut = true) ∧
    (∀ v, i = .txbyte v → t.sclOut = false ∧ t.sdaOut = v.getLsbD 0) ∧
    (∀ a, i = .rxbyte a → t.sclOut = false ∧ t.sdaOut = !a) ∧
    (i = .wack → t.sclOut = false ∧ t.sdaOut = true)

/-- R65, R75 (frame): what the micro-operations leave alone. Only START and STOP write `PHASE`, only WACK `ACKF`, only
TXBYTE and RXBYTE `SHR` and `BITCNT`, only RXBIT, RXBYTE and WACK take an answer; no micro-operation writes any
other register or a byte of a buffer, or emits a buffer event or a response. -/
def Obligations.MicroOperationFrame : Prop :=
  ∀ (s t : State) (i : Instr), i.isCommand = false → exec i s = .next t →
    t.cfg = s.cfg ∧ t.sclMode = s.sclMode ∧ t.sdaMode = s.sdaMode ∧ t.inited = s.inited ∧ t.busy = s.busy ∧
    t.status = s.status ∧ t.idx = s.idx ∧ t.op = s.op ∧ t.addr7 = s.addr7 ∧ t.reg8 = s.reg8 ∧ t.len = s.len ∧
    t.todo = s.todo ∧ t.inbox = s.inbox ∧ t.rstFor = s.rstFor ∧ t.pace = s.pace ∧
    (i ≠ .start → i ≠ .stop → t.phase = s.phase) ∧
    (i ≠ .wack → t.ackf = s.ackf) ∧
    ((∀ v, i ≠ .txbyte v) → (∀ a, i ≠ .rxbyte a) → t.shr = s.shr ∧ t.bitcnt = s.bitcnt) ∧
    (i ≠ .rxbit → i ≠ .wack → (∀ a, i ≠ .rxbyte a) →
      t.rxbit = s.rxbit ∧ t.script = s.script ∧ t.reads = s.reads) ∧
    (∀ x, t.txbuf.get x = s.txbuf.get x) ∧ (∀ x, t.rxbuf.get x = s.rxbuf.get x) ∧
    ∃ es, t.trace = s.trace ++ es ∧ es.all Event.isPlatform = true

/-! ## Commands -/

/-- R85: INIT. -/
def Obligations.InitReleasesTheLines : Prop :=
  encode .init = .cmd 0x10000000#32 ∧
  ∀ s : State, s.busy = false →
    exec .init s = .next { s with
      sclOut := true, sdaOut := true, sclMode := .openDrainOutput, sdaMode := .openDrainOutput,
      inited := true, phase := .idle, status := .ok, busy := false,
      op := 0x1#4, addr7 := 0#7, reg8 := 0#8, len := 0#12, upc := 5, todo := [],
      trace := [.cfg .scl, .cfg .sda, .w .scl .high, .w .sda .high, .rsp .ok] }

/-- R86, R87(1), (3): a WRITE whose every transmitted byte is acknowledged (`rxbit`, `script`, `reads`: logs 12, 1). -/
def Obligations.WriteSendsEveryByte : Prop :=
  ∀ (s : State) (a : Addr7) (r : Byte) (n : Nat),
    s.busy = false → s.inited = true → n < 4096 → AllAcked s (n + 2) →
    exec (.write a r n) s = .next { s with
      sclOut := true, sdaOut := true, phase := .stopped, status := .ok, busy := false, ackf := true,
      shr := 0#8, bitcnt := 8#4, rxbit := false, idx := BitVec.ofNat 12 n,
      op := 0x2#4, addr7 := a, reg8 := r, len := BitVec.ofNat 12 n, todo := [],
      script := s.script.drop (n + 2), reads := s.reads + (n + 2), upc := 103 + 46 * n,
      trace := writeTrace s a r (n + 2) ++ stopTrace s.cfg.tHalf ++ [.rsp .ok] }

/-- R84, R86, R87(2), R104: a WRITE whose `k`-th transmitted byte (0 the address byte, 1 the register byte, `i + 2`
data byte `i`) is the first not acknowledged: nothing after it is read or sent, and STOP is. -/
def Obligations.WriteAbortsAtFirstNack : Prop :=
  ∀ (s : State) (a : Addr7) (r : Byte) (n k : Nat),
    s.busy = false → s.inited = true → n < 4096 → k < n + 2 → FirstNack s k →
    exec (.write a r n) s = .next { s with
      sclOut := true, sdaOut := true, phase := .stopped, status := .nack, busy := false, ackf := false,
      shr := 0#8, bitcnt := 8#4, rxbit := true, idx := if k < 2 then s.idx else BitVec.ofNat 12 (k - 2),
      op := 0x2#4, addr7 := a, reg8 := r, len := BitVec.ofNat 12 n, todo := [],
      script := s.script.drop (k + 1), reads := s.reads + (k + 1),
      upc := (if k < 2 then 58 + 45 * k else 103 + 46 * (k - 1)),
      trace := writeTrace s a r k ++ writeByteTrace s a r .high k ++ stopTrace s.cfg.tHalf ++ [.rsp .nack] }

/-- R89, R91: a READ whose three transmitted bytes are acknowledged, `n` = 0 included: the answers that follow go to
RXBUF in order, eight to a byte, every byte acknowledged but the last. -/
def Obligations.ReadFillsTheBuffer : Prop :=
  ∀ (s : State) (a : Addr7) (r : Byte) (n : Nat),
    s.busy = false → s.inited = true → n < 4096 → AllAcked s 3 →
    exec (.read a r n) s = .next { s with
      sclOut := true, sdaOut := true, phase := .stopped, status := .ok, busy := false, ackf := true,
      shr := if n = 0 then 0#8 else s.byteRead (3 + 8 * (n - 1)), bitcnt := 8#4,
      rxbit := decide (s.answer (2 + 8 * n) = .high), idx := BitVec.ofNat 12 n,
      op := 0x3#4, addr7 := a, reg8 := r, len := BitVec.ofNat 12 n, todo := [],
      script := s.script.drop (3 + 8 * n), reads := s.reads + (3 + 8 * n), upc := 154 + 47 * n,
      rxbuf := storeAll s.rxbuf (fun i => s.byteRead (3 + 8 * i)) n,
      trace := readTrace s a r 3 ++ (List.range n).flatMap (readByteTrace s n)
        ++ stopTrace s.cfg.tHalf ++ [.rsp .ok] }

/-- R84, R89, R90, R104: a READ whose `k`-th transmitted byte (0 the address byte in write direction, 1 the register
byte, 2 the address byte in read direction) is the first not acknowledged: RXBUF is as it was. -/
def Obligations.ReadAbortsAtFirstNack : Prop :=
  ∀ (s : State) (a : Addr7) (r : Byte) (n k : Nat),
    s.busy = false → s.inited = true → n < 4096 → k < 3 → FirstNack s k →
    exec (.read a r n) s = .next { s with
      sclOut := true, sdaOut := true, phase := .stopped, status := .nack, busy := false, ackf := false,
      shr := 0#8, bitcnt := 8#4, rxbit := true,
      op := 0x3#4, addr7 := a, reg8 := r, len := BitVec.ofNat 12 n, todo := [],
      script := s.script.drop (k + 1), reads := s.reads + (k + 1),
      upc := (if k < 2 then 58 + 45 * k else 154),
      trace := readTrace s a r k ++ readSendTrace s a r .high k ++ stopTrace s.cfg.tHalf ++ [.rsp .nack] }

/-- R92: PROBE answers OK or NACK by the one acknowledgment, and stops in either case (`rxbit`, `script`, `reads`:
logs 12, 1). -/
def Obligations.ProbeAnswersTheAcknowledgment : Prop :=
  ∀ (s : State) (a : Addr7), s.busy = false → s.inited = true →
    encode (.probe a) = .cmd (BitVec.ofNat 32 (0x40000000 + a.toNat * 2 ^ 20)) ∧
    exec (.probe a) s = .next { s with
      sclOut := true, sdaOut := true, phase := .stopped,
      status := if s.answer 0 = .low then .ok else .nack, busy := false,
      ackf := decide (s.answer 0 = .low), shr := 0#8, bitcnt := 8#4, rxbit := decide (s.answer 0 = .high),
      op := 0x4#4, addr7 := a, reg8 := 0#8, len := 0#12, todo := [],
      script := s.script.drop 1, reads := s.reads + 1, upc := 58,
      trace := startTrace s.cfg.tHalf ++ sendTrace s.cfg.tHalf (addressByte a false) (s.answer 0)
        ++ stopTrace s.cfg.tHalf ++ [.rsp (if s.answer 0 = .low then .ok else .nack)] }

/-- R102: WRITE, READ and PROBE while `INITED` = 0 respond NOINIT and do nothing else. -/
def Obligations.NotInitialisedIsRefused : Prop :=
  ∀ (s : State) (a : Addr7) (r : Byte) (n : Nat), s.busy = false → s.inited = false → n < 4096 →
    exec (.write a r n) s = .next (s.refusedNoInit 0x2#4 a r (BitVec.ofNat 12 n)) ∧
    exec (.read a r n) s = .next (s.refusedNoInit 0x3#4 a r (BitVec.ofNat 12 n)) ∧
    exec (.probe a) s = .next (s.refusedNoInit 0x4#4 a 0#8 0#12)

/-- R57, R103, R107(a): a word that selects no row is answered ILLEGAL whether or not INIT has run, at either pace;
beyond `STATUS` only the trace and `UPC`, which acceptance begins anew (log 15), tell of it. -/
def Obligations.IllegalWordIsAnswered : Prop :=
  ∀ (s : State) (w : BitVec 32) (rest : List PortWord) (e : DecodeError),
    Taking s (.cmd w) rest → s.todo = [] → decodeCmd w = .rejected e →
    (s.pace = .whole →
      step s = .next { s with inbox := rest, status := .illegal, trace := [.rsp .illegal], upc := 1 }) ∧
    (s.pace = .event → Host.Core.run Sys2Proof.core 2 s =
      .next { s with inbox := rest, status := .illegal, trace := [.rsp .illegal], upc := 1 })

/-- R83: every command responds exactly once, as its last event, with the status it leaves; `BUSY` is 0 again. -/
def Obligations.OneResponseEndsEachCommand : Prop :=
  ∀ (s : State) (i : Instr), i.isCommand = true → i.wellFormed = true → s.busy = false →
    Completes i s fun t =>
      t.busy = false ∧ ∃ es, t.trace = es ++ [.rsp t.status] ∧ es.all (fun e => !e.isRsp) = true

/-- R23(a), (e), R105: after any command the lines are idle and no transaction is in progress, if so before. -/
def Obligations.CommandsLeaveTheBusIdle : Prop :=
  ∀ (s : State) (i : Instr), i.isCommand = true → i.wellFormed = true → s.busy = false →
    s.idle = true → s.phase.noTransaction = true →
    Completes i s fun t => t.idle = true ∧ t.phase.noTransaction = true ∧ t.busy = false

/-- R4, R12, R19, R30, R85 (frame): what the commands leave alone. Only INIT writes the pin modes and `INITED`; no
command writes a byte of TXBUF; WRITE, INIT and PROBE write no byte of RXBUF, and READ none but its first `LEN`; the
configuration and what the host has in hand stay. -/
def Obligations.CommandFrame : Prop :=
  ∀ (s t : State) (i : Instr), i.isCommand = true → i.wellFormed = true → s.busy = false →
    exec i s = .next t →
    t.cfg = s.cfg ∧ t.inbox = s.inbox ∧ t.rstFor = s.rstFor ∧ t.pace = s.pace ∧
    (i ≠ .init → t.sclMode = s.sclMode ∧ t.sdaMode = s.sdaMode ∧ t.inited = s.inited) ∧
    (i = .init → t.ackf = s.ackf ∧ t.shr = s.shr ∧ t.bitcnt = s.bitcnt ∧ t.idx = s.idx ∧ t.rxbit = s.rxbit ∧
      t.script = s.script ∧ t.reads = s.reads) ∧
    (∀ a, i = .probe a → t.idx = s.idx) ∧
    (∀ x, t.txbuf.get x = s.txbuf.get x) ∧
    ((∀ a r n, i ≠ .read a r n) → ∀ x, t.rxbuf.get x = s.rxbuf.get x) ∧
    (∀ a r n, i = .read a r n → ∀ x, (∀ j < n, bufferAddress (BitVec.ofNat 12 j) ≠ x) →
      t.rxbuf.get x = s.rxbuf.get x)

/-- R32, R89: byte `i` of RXBUF after a successful READ is the `i`-th byte received; a byte past `LEN` is as it was. -/
def Obligations.ReadStoresBytesInOrder : Prop :=
  ∀ (s : State) (a : Addr7) (r : Byte) (n : Nat),
    s.busy = false → s.inited = true → n < 4096 → s.rxbuf.wf → AllAcked s 3 →
    Completes (.read a r n) s fun t =>
      t.status = .ok ∧ (∀ i < n, t.rxbuf.get i = s.byteRead (3 + 8 * i)) ∧
      (∀ i, n ≤ i → t.rxbuf.get i = s.rxbuf.get i)

/-- R90: a READ that does not return OK emits no `ST` and leaves RXBUF exactly as it was. -/
def Obligations.FailedReadStoresNothing : Prop :=
  ∀ (s : State) (a : Addr7) (r : Byte) (n : Nat), s.busy = false → n < 4096 →
    Completes (.read a r n) s fun t =>
      t.status ≠ .ok → t.rxbuf = s.rxbuf ∧ t.trace.countP Event.isStore = 0

/-- R31, R43: the bytes read from TXBUF and written to RXBUF, with their indices. A successful WRITE reads 0..n-1 in
order; one that stops at data byte `k` reads 0..k; a successful READ writes 0..n-1 in order. -/
def Obligations.BufferAccessesAscend : Prop :=
  ∀ (s : State) (a : Addr7) (r : Byte) (n : Nat), s.busy = false → s.inited = true → n < 4096 →
    (AllAcked s (n + 2) → Completes (.write a r n) s fun t =>
      loads t.trace = (List.range n).map (fun i => (BitVec.ofNat 12 i, s.txByte i)) ∧ stores t.trace = []) ∧
    (∀ k < 2, FirstNack s k → Completes (.write a r n) s fun t => loads t.trace = [] ∧ stores t.trace = []) ∧
    (∀ k < n, FirstNack s (k + 2) → Completes (.write a r n) s fun t =>
      loads t.trace = (List.range (k + 1)).map (fun i => (BitVec.ofNat 12 i, s.txByte i)) ∧
      stores t.trace = []) ∧
    (AllAcked s 3 → Completes (.read a r n) s fun t =>
      stores t.trace = (List.range n).map (fun i => (BitVec.ofNat 12 i, s.byteRead (3 + 8 * i))) ∧
      loads t.trace = []) ∧
    (∀ k < 3, FirstNack s k → Completes (.read a r n) s fun t => loads t.trace = [] ∧ stores t.trace = []) ∧
    (Completes (.probe a) s fun t => loads t.trace = [] ∧ stores t.trace = []) ∧
    (Completes .init s fun t => loads t.trace = [] ∧ stores t.trace = [])

/-- R97: the event counts of every command and outcome (platform events, `D`, `R`, `LD`, `ST`) and its status. -/
def Obligations.EventCountsOfEveryOutcome : Prop :=
  ∀ (s : State) (a : Addr7) (r : Byte) (n : Nat), s.busy = false → n < 4096 →
    (∀ (w : BitVec 32) (rest : List PortWord) (e : DecodeError),
      Taking s (.cmd w) rest → s.pace = .whole → decodeCmd w = .rejected e →
      ∃ t, step s = .next t ∧ eventCounts t.trace = [0, 0, 0, 0, 0] ∧ t.status = .illegal) ∧
    (Completes .init s fun t => eventCounts t.trace = [4, 0, 0, 0, 0] ∧ t.status = .ok) ∧
    (s.inited = false →
      (Completes (.write a r n) s fun t => eventCounts t.trace = [0, 0, 0, 0, 0] ∧ t.status = .noinit) ∧
      (Completes (.read a r n) s fun t => eventCounts t.trace = [0, 0, 0, 0, 0] ∧ t.status = .noinit) ∧
      (Completes (.probe a) s fun t => eventCounts t.trace = [0, 0, 0, 0, 0] ∧ t.status = .noinit)) ∧
    (s.inited = true →
      (Completes (.probe a) s fun t => eventCounts t.trace = [57, 22, 1, 0, 0] ∧
        t.status = if s.answer 0 = .low then .ok else .nack) ∧
      (AllAcked s (n + 2) → Completes (.write a r n) s fun t =>
        eventCounts t.trace = [102 + 45 * n, 39 + 17 * n, 2 + n, n, 0] ∧ t.status = .ok) ∧
      (FirstNack s 0 → Completes (.write a r n) s fun t =>
        eventCounts t.trace = [57, 22, 1, 0, 0] ∧ t.status = .nack) ∧
      (FirstNack s 1 → Completes (.write a r n) s fun t =>
        eventCounts t.trace = [102, 39, 2, 0, 0] ∧ t.status = .nack) ∧
      (∀ k < n, FirstNack s (k + 2) → Completes (.write a r n) s fun t =>
        eventCounts t.trace = [147 + 45 * k, 56 + 17 * k, 3 + k, k + 1, 0] ∧ t.status = .nack) ∧
      (AllAcked s 3 → Completes (.read a r n) s fun t =>
        eventCounts t.trace = [153 + 46 * n, 58 + 10 * n, 3 + 8 * n, 0, n] ∧ t.status = .ok) ∧
      (FirstNack s 0 → Completes (.read a r n) s fun t =>
        eventCounts t.trace = [57, 22, 1, 0, 0] ∧ t.status = .nack) ∧
      (FirstNack s 1 → Completes (.read a r n) s fun t =>
        eventCounts t.trace = [102, 39, 2, 0, 0] ∧ t.status = .nack) ∧
      (FirstNack s 2 → Completes (.read a r n) s fun t =>
        eventCounts t.trace = [153, 58, 3, 0, 0] ∧ t.status = .nack))

/-- R53, R65(e): a command calls the platform through the four capabilities only, on the two pins of the
configuration, reading the data pin only and delaying by `T_HALF` only. -/
def Obligations.PlatformCallsOfACommand : Prop :=
  ∀ (s : State) (i : Instr), i.isCommand = true → i.wellFormed = true → s.busy = false →
    Completes i s fun t => ∀ c ∈ t.trace.filterMap (platformCall s.cfg),
      (∃ p ∈ [s.cfg.sclPin, s.cfg.sdaPin], c = .pinConfigure p ∨ ∃ l, c = .pinWrite p l) ∨
      (∃ l, c = .pinRead s.cfg.sdaPin l) ∨ c = .delayMicroseconds s.cfg.tHalf

/-- R13, R138: every command ends, after at most the 192 619 events of the longest. -/
def Obligations.CommandsEndWithinTheBound : Prop :=
  ∀ (s : State) (i : Instr), i.isCommand = true → i.wellFormed = true → s.busy = false →
    Completes i s fun t => t.busy = false ∧ t.upc ≤ 153 + 46 * 4095 + 4095 + 1

/-! ## The wire -/

/-- R52: the frames on the wire of every command and outcome. -/
def Obligations.WireFrames : Prop :=
  ∀ (s : State) (a : Addr7) (r : Byte) (n : Nat), s.busy = false → s.inited = true → n < 4096 →
    (AllAcked s (n + 2) → Completes (.write a r n) s fun t =>
      frame t.trace = .start :: (List.range (n + 2)).map (fun j => .sentByte (sentByWrite s a r j) true) ++ [.stop]) ∧
    (∀ k < n + 2, FirstNack s k → Completes (.write a r n) s fun t =>
      frame t.trace = .start :: (List.range k).map (fun j => .sentByte (sentByWrite s a r j) true)
        ++ [.sentByte (sentByWrite s a r k) false, .stop]) ∧
    (AllAcked s 3 → Completes (.read a r n) s fun t =>
      frame t.trace = [.start, .sentByte (addressByte a false) true, .sentByte r true, .start,
          .sentByte (addressByte a true) true]
        ++ (List.range n).map (fun i => .gotByte (s.byteRead (3 + 8 * i)) (decide (i + 1 < n))) ++ [.stop]) ∧
    (FirstNack s 0 → Completes (.read a r n) s fun t =>
      frame t.trace = [.start, .sentByte (addressByte a false) false, .stop]) ∧
    (FirstNack s 1 → Completes (.read a r n) s fun t =>
      frame t.trace = [.start, .sentByte (addressByte a false) true, .sentByte r false, .stop]) ∧
    (FirstNack s 2 → Completes (.read a r n) s fun t =>
      frame t.trace = [.start, .sentByte (addressByte a false) true, .sentByte r true, .start,
        .sentByte (addressByte a true) false, .stop]) ∧
    (Completes (.probe a) s fun t =>
      frame t.trace = [.start, .sentByte (addressByte a false) (decide (s.answer 0 = .low)), .stop])

/-- R23(d), R131: while the clock line is HIGH the data line is written only inside START (LOW) and STOP (HIGH): once
each, and START's twice in a READ that reaches its repeated START. -/
def Obligations.DataStableWhileClockHigh : Prop :=
  ∀ (s : State) (a : Addr7) (r : Byte) (n : Nat), s.busy = false → s.inited = true → n < 4096 →
    (Completes (.write a r n) s fun t => clockHighWrites false t.trace = [.low, .high]) ∧
    (Completes (.probe a) s fun t => clockHighWrites false t.trace = [.low, .high]) ∧
    (Completes (.read a r n) s fun t => clockHighWrites false t.trace =
      if s.answer 0 = .low ∧ s.answer 1 = .low then [.low, .low, .high] else [.low, .high])

/-- R93: the first 51 events of PROBE a, of WRITE a, r, n and of READ a, r, n are one list of platform events, START,
TXBYTE of the address byte in write direction and WACK, given the same answer to the read in it. -/
def Obligations.ProbeOpensLikeWriteAndRead : Prop :=
  ∀ (s : State) (a : Addr7) (r : Byte) (n : Nat), s.busy = false → s.inited = true → n < 4096 →
    ∃ es : List Event,
      es = startTrace s.cfg.tHalf ++ sendTrace s.cfg.tHalf (addressByte a false) (s.answer 0) ∧
      es.length = 51 ∧ es.all Event.isPlatform = true ∧
      (Completes (.probe a) s fun t => es <+: t.trace) ∧
      (Completes (.write a r n) s fun t => es <+: t.trace) ∧
      (Completes (.read a r n) s fun t => es <+: t.trace)

/-- R98: the platform events of a command whose every byte is acknowledged are those of its micro-operations run one
after another, and so are the lines and `PHASE` they leave. -/
def Obligations.CommandsAreMicroOperationPrograms : Prop :=
  ∀ (s : State) (a : Addr7) (r : Byte) (n : Nat), s.busy = false → s.inited = true → n < 4096 →
    s.sclOut = true → s.sdaOut = true →
    ∀ (i : Instr) (k : Nat),
      (i = .probe a ∧ k = 1 ∨ i = .write a r n ∧ k = n + 2 ∨ i = .read a r n ∧ k = 3) → AllAcked s k →
      ∃ t u, exec i s = .next t ∧ execAll (expansion i ((List.range n).map s.txByte)) s = .next u ∧
        u.trace = s.trace ++ t.trace.filter Event.isPlatform ∧
        u.sclOut = t.sclOut ∧ u.sdaOut = t.sdaOut ∧ u.phase = t.phase ∧ u.ackf = t.ackf ∧
        u.script = t.script ∧ u.reads = t.reads

/-! ## What a run does not depend on -/

/-- R22: no command depends on what an ephemeral register held before it: from two states that differ in those only,
the two runs have one trace and end in states that differ in those at most. -/
def Obligations.CommandsIgnoreEphemeralRegisters : Prop :=
  ∀ (s s' : State) (i : Instr), i.isCommand = true → i.wellFormed = true → s.busy = false →
    s.sameButEphemeral s' →
    ∃ t t', exec i s = .next t ∧ exec i s' = .next t' ∧ t.sameButEphemeral t' ∧ t.trace = t'.trace

/-- R71: changing `T_HALF` changes only the argument of the `D` events. -/
def Obligations.HalfPeriodIsOnlyAnArgument : Prop :=
  ∀ (s t : State) (i : Instr) (h : BitVec 16), i.wellFormed = true → exec i s = .next t →
    ∃ es, exec i { s with cfg := { s.cfg with tHalf := h } } =
        .next { t with cfg := { t.cfg with tHalf := h }, trace := es } ∧
      es.map Event.withoutDelay = t.trace.map Event.withoutDelay

/-! ## Steps -/

/-- R83, R115: a step that takes a word runs the instruction the word decodes to. -/
def Obligations.StepRunsTheDecodedInstruction : Prop :=
  ∀ (s : State) (w : PortWord) (rest : List PortWord) (i : Instr),
    Taking s w rest → s.pace = .whole → decode w = .ok i → step s = exec i { s with inbox := rest }

/-- MODEL'S OWN (log 7): the word `withFetchWord` presents is the one the next step runs. -/
def Obligations.FetchWordIsRunNext : Prop :=
  ∀ (s : State) (nbits w : Nat) (i : Instr), s.cfg.ok = true → decodeTableWord nbits w = some i →
    step (s.withFetchWord nbits w) = exec i { s with rstFor := 0, busy := false, todo := [], pace := .whole }

/-- R12, R16, R83: at the pace of events a step that takes a command accepts it: the latches are loaded, `BUSY` is 1,
`UPC` is 0, nothing has been emitted, and the rest of the state, `PHASE` and the lines among it, is as it was. -/
def Obligations.AcceptanceLatchesTheCommand : Prop :=
  ∀ (s : State) (rest : List PortWord) (a : Addr7) (r : Byte) (n : Nat),
    s.pace = .event → n < 4096 →
    (Taking s (encode (.write a r n)) rest → ∃ acts, step s = .next { s with
      inbox := rest, busy := true, upc := 0, trace := [], todo := acts,
      op := 0x2#4, addr7 := a, reg8 := r, len := BitVec.ofNat 12 n }) ∧
    (Taking s (encode (.read a r n)) rest → ∃ acts, step s = .next { s with
      inbox := rest, busy := true, upc := 0, trace := [], todo := acts,
      op := 0x3#4, addr7 := a, reg8 := r, len := BitVec.ofNat 12 n }) ∧
    (Taking s (encode (.probe a)) rest → ∃ acts, step s = .next { s with
      inbox := rest, busy := true, upc := 0, trace := [], todo := acts,
      op := 0x4#4, addr7 := a, reg8 := 0#8, len := 0#12 }) ∧
    (Taking s (encode .init) rest → ∃ acts, step s = .next { s with
      inbox := rest, busy := true, upc := 0, trace := [], todo := acts,
      op := 0x1#4, addr7 := 0#7, reg8 := 0#8, len := 0#12 })

/-- R12, R115: while `BUSY` = 1 a word presented is held off, and the latches of the running command stand. -/
def Obligations.BusyHoldsOffTheNextCommand : Prop :=
  ∀ s : State, s.Sound → s.cfg.ok = true → s.rstFor = 0 → s.busy = true →
    ∃ t, step s = .next t ∧ t.inbox = s.inbox ∧ t.op = s.op ∧ t.addr7 = s.addr7 ∧ t.reg8 = s.reg8 ∧ t.len = s.len

/-- R13, R28: at the pace of events every step of a running command emits one event, and `UPC` counts it. -/
def Obligations.EachStepEmitsOneEvent : Prop :=
  ∀ s : State, s.Sound → s.cfg.ok = true → s.rstFor = 0 → s.busy = true → s.pace = .event →
    ∃ t e, step s = .next t ∧ t.trace = s.trace ++ [e] ∧ t.upc = s.upc + 1

/-- R13, D21: a command run event by event is the command: after the step that accepts it and one step for each
event, the state is the one the whole run gives. -/
def Obligations.EventPaceRunsTheWholeCommand : Prop :=
  ∀ (s : State) (w : PortWord) (rest : List PortWord) (i : Instr),
    Taking s w rest → s.pace = .event → decode w = .ok i → i.isCommand = true →
    ∃ t, exec i { s with inbox := rest } = .next t ∧ Host.Core.run Sys2Proof.core (t.upc + 1) s = .next t

/-- R14: `PHASE` along a READ whose three transmitted bytes are acknowledged, event by event: STARTED after the six
events of START, WRITING from the first acknowledgment (ADDRESSED and WRITING being entered together), STARTED again
after the repeated START, and after the third acknowledgment READING, or ADDRESSED where `n` = 0. -/
def Obligations.PhaseAlongARead : Prop :=
  ∀ (s : State) (rest : List PortWord) (a : Addr7) (r : Byte) (n : Nat),
    Taking s (encode (.read a r n)) rest → s.pace = .event → s.inited = true → n < 4096 → AllAcked s 3 →
    (∃ t, Host.Core.run Sys2Proof.core 1 s = .next t ∧ t.phase = s.phase ∧ t.busy = true) ∧
    (∃ t, Host.Core.run Sys2Proof.core (1 + 6) s = .next t ∧ t.phase = .started) ∧
    (∃ t, Host.Core.run Sys2Proof.core (1 + 51) s = .next t ∧ t.phase = .writing) ∧
    (∃ t, Host.Core.run Sys2Proof.core (1 + 102) s = .next t ∧ t.phase = .started) ∧
    (∃ t, Host.Core.run Sys2Proof.core (1 + 147) s = .next t ∧
      t.phase = if n = 0 then .addressed else .reading)

/-- R120, R121, R107(e): a step with `rst` = 1 gives the reset values whatever was running: both latches released,
nothing emitted, no command in progress; the buffers, the configuration and the words presented are not touched. -/
def Obligations.ResetOverridesEverything : Prop :=
  ∀ s : State, s.cfg.ok = true → s.rstFor ≠ 0 →
    ∃ t, step s = .next t ∧ t.sclOut = true ∧ t.sdaOut = true ∧ t.inited = false ∧ t.busy = false ∧
      t.phase = .idle ∧ t.status = .ok ∧ t.upc = 0 ∧ t.trace = [] ∧ t.todo = [] ∧
      t.txbuf = s.txbuf ∧ t.rxbuf = s.rxbuf ∧ t.cfg = s.cfg ∧ t.inbox = s.inbox

/-- R117: with no word presented the controller waits. -/
def Obligations.ControllerWaitsForACommand : Prop :=
  ∀ s : State, s.cfg.ok = true → s.rstFor = 0 → s.busy = false → s.inbox = [] → step s = .next s

/-- R59, 93 U22: a UOP12 word that names no micro-operation is refused. -/
def Obligations.UnknownMicroOperationIsRefused : Prop :=
  ∀ (s : State) (w : BitVec 12) (rest : List PortWord) (e : DecodeError),
    Taking s (.uop w) rest → decodeUop w = .rejected e → step s = .refused .noMicroOperation

/-- R4, 93 U28: a configuration whose two pins are one is refused. -/
def Obligations.OnePinForBothLinesIsRefused : Prop :=
  ∀ s : State, s.cfg.sdaPin = s.cfg.sclPin → step s = .refused .pinsNotDistinct

/-! ## Ports -/

/-- R14, R58, R113, R115: the ports show the latches, `BUSY`, `PHASE` and `STATUS` in their codes, and a pulse for each
event that has a port. -/
def Obligations.PortsShowTheState : Prop :=
  (∀ (s : State) (e : Option Event),
    (ports s e).cmdReady = !s.busy ∧ (ports s e).busy = s.busy ∧
    (ports s e).sclO = s.sclOut ∧ (ports s e).sdaO = s.sdaOut ∧
    (ports s e).phase = s.phase.code ∧ (ports s e).status = s.status.code) ∧
  (∀ (s : State) (i : Index) (v : Byte) (st : Status) (n : BitVec 16),
    (ports s (some (.ld i v))).txRead = some i ∧ (ports s (some (.st i v))).rxWrite = some (i, v) ∧
    (ports s (some (.rsp st))).rsp = some st.code ∧ (ports s (some (.d n))).delay = some n ∧
    (ports s (some (.cfg .scl))).sclCfg = true ∧ (ports s (some (.cfg .sda))).sdaCfg = true ∧
    (ports s none).txRead = none ∧ (ports s none).rxWrite = none ∧ (ports s none).rsp = none) ∧
  [Status.ok, .nack, .illegal, .noinit].map Status.code = [0#2, 1#2, 2#2, 3#2] ∧
  [Phase.idle, .started, .addressed, .writing, .reading, .stopped].map Phase.code
    = [0#3, 1#3, 2#3, 3#3, 4#3, 5#3]

/-! ## Reset and invariants -/

/-- R29: the reset values the spec gives. -/
def Obligations.ResetValues : Prop :=
  State.reset.sclOut = true ∧ State.reset.sdaOut = true ∧ State.reset.inited = false ∧
  State.reset.busy = false ∧ State.reset.phase = .idle ∧ State.reset.status = .ok ∧ State.reset.upc = 0

/-- The invariants hold at reset. -/
def Obligations.ResetIsBusSound : Prop := State.reset.BusSound

/-- R13, R16, R30: every step, whatever word it takes, keeps the buffers canonical, `UPC` the length of the trace, and
`BUSY` = 1 exactly while a response is still to come. -/
def Obligations.StepKeepsSound : Prop :=
  ∀ s t : State, s.Sound → step s = .next t → t.Sound

/-- R23(a), (e), R105: where the host presents commands only, every step keeps the idle invariant. -/
def Obligations.StepKeepsBusSound : Prop :=
  ∀ s t : State, s.BusSound → step s = .next t → t.BusSound
end

