-- ==== Sys2Proof/Laws/Memory.lean ====
section
/-! SUPPORT. The laws of the buffers (R30 to R32): a read after a write, the canonical form, and that canonical
buffers that read alike are equal. -/

namespace Sys2Proof.Machine

theorem memory_get_cons (c : Host.Cell) (m : Memory) (i : Nat) :
    Memory.get (c :: m) i = if i = c.1 then c.2 else Memory.get m i := rfl

/-- An index below every listed one reads as `fill`. -/
theorem memory_get_of_below (m : Memory) (i : Nat) (h : ∀ c ∈ m, i < c.1) : m.get i = Memory.fill := by
  induction m with
  | nil => rfl
  | cons c m ih =>
    have hc : i < c.1 := h c (by simp)
    rw [memory_get_cons, if_neg (by omega)]
    exact ih fun e he => h e (by simp [he])

/-- What a canonical buffer lists reads as listed, and `fill` elsewhere. -/
theorem memory_get_set_same (m : Memory) (hm : m.Pairwise fun c e => c.1 < e.1) (i : Nat) (v : Byte) :
    (m.set i v).get i = v := by
  induction m with
  | nil => by_cases hv : v = Memory.fill <;> simp [Memory.set, Memory.get, hv]
  | cons c m ih =>
    obtain ⟨j, b⟩ := c
    rw [List.pairwise_cons] at hm
    by_cases h1 : i < j
    · have hbelow : Memory.get ((j, b) :: m) i = Memory.fill := by
        apply memory_get_of_below
        intro c hc
        rcases List.mem_cons.mp hc with rfl | hc
        · exact h1
        · exact Nat.lt_trans h1 (hm.1 c hc)
      by_cases hv : v = Memory.fill
      · simp only [Memory.set, if_pos h1, if_pos hv]; rw [hbelow, hv]
      · simp only [Memory.set, if_pos h1, if_neg hv, Memory.get, if_true]
    · by_cases h2 : i = j
      · subst h2
        by_cases hv : v = Memory.fill
        · simp only [Memory.set, if_neg h1, if_true, if_pos hv]
          rw [memory_get_of_below m i hm.1, hv]
        · simp only [Memory.set, if_neg h1, if_true, if_neg hv, Memory.get]
      · simp only [Memory.set, if_neg h1, if_neg h2, Memory.get]
        exact ih hm.2

/-- A write leaves every other index alone. -/
theorem memory_get_set_other (m : Memory) (i j : Nat) (v : Byte) (h : j ≠ i) : (m.set i v).get j = m.get j := by
  induction m with
  | nil => by_cases hv : v = Memory.fill <;> simp [Memory.set, Memory.get, hv, h]
  | cons c m ih =>
    obtain ⟨k, b⟩ := c
    by_cases h1 : i < k
    · by_cases hv : v = Memory.fill <;> simp [Memory.set, Memory.get, h1, hv, h]
    · by_cases h2 : i = k
      · subst h2
        by_cases hv : v = Memory.fill <;> simp [Memory.set, Memory.get, hv, h]
      · simp only [Memory.set, if_neg h1, if_neg h2, Memory.get, ih]

/-- The indices a write lists: the one written and those listed before. -/
theorem memory_mem_set (m : Memory) (i : Nat) (v : Byte) (c : Host.Cell) (hc : c ∈ m.set i v) :
    c ∈ m ∨ (c = (i, v) ∧ v ≠ Memory.fill) := by
  induction m with
  | nil =>
    by_cases hv : v = Memory.fill
    · simp [Memory.set, hv] at hc
    · simp [Memory.set, hv] at hc; exact .inr ⟨hc, hv⟩
  | cons e m ih =>
    obtain ⟨k, b⟩ := e
    by_cases h1 : i < k
    · by_cases hv : v = Memory.fill
      · simp [Memory.set, h1, hv] at hc; simp [hc]
      · simp [Memory.set, h1, hv] at hc
        rcases hc with hc | hc | hc
        · exact .inr ⟨hc, hv⟩
        · simp [hc]
        · simp [hc]
    · by_cases h2 : i = k
      · by_cases hv : v = Memory.fill
        · simp [Memory.set, h2, hv] at hc; simp [hc]
        · simp [Memory.set, h2, hv] at hc
          rcases hc with hc | hc
          · exact .inr ⟨by rw [hc, h2], hv⟩
          · simp [hc]
      · simp only [Memory.set, if_neg h1, if_neg h2, List.mem_cons] at hc
        rcases hc with hc | hc
        · simp [hc]
        · rcases ih hc with h | h
          · simp [h]
          · exact .inr h

/-- A write keeps the canonical form. -/
theorem memory_set_wf (m : Memory) (hm : m.wf) (i : Nat) (hi : i < 4096) (v : Byte) : (m.set i v).wf := by
  refine ⟨?_, fun c hc => ?_⟩
  · obtain ⟨hp, -⟩ := hm
    induction m with
    | nil => by_cases hv : v = Memory.fill <;> simp [Memory.set, hv]
    | cons e m ih =>
      obtain ⟨k, b⟩ := e
      rw [List.pairwise_cons] at hp
      by_cases h1 : i < k
      · by_cases hv : v = Memory.fill
        · simp only [Memory.set, if_pos h1, if_pos hv, List.pairwise_cons]; exact hp
        · simp only [Memory.set, if_pos h1, if_neg hv, List.pairwise_cons, List.mem_cons]
          refine ⟨?_, hp⟩
          rintro c (rfl | hc)
          · exact h1
          · exact Nat.lt_trans h1 (hp.1 c hc)
      · by_cases h2 : i = k
        · by_cases hv : v = Memory.fill
          · simp only [Memory.set, if_neg h1, if_pos h2, if_pos hv]; exact hp.2
          · simp only [Memory.set, if_neg h1, if_pos h2, if_neg hv, List.pairwise_cons]
            exact ⟨fun c hc => by subst h2; exact hp.1 c hc, hp.2⟩
        · simp only [Memory.set, if_neg h1, if_neg h2, List.pairwise_cons]
          refine ⟨fun c hc => ?_, ih hp.2⟩
          rcases memory_mem_set m i v c hc with h | ⟨rfl, -⟩
          · exact hp.1 c h
          · show k < i
            omega
  · rcases memory_mem_set m i v c hc with h | ⟨rfl, hv⟩
    · exact hm.2 c h
    · exact ⟨hv, hi⟩

/-- Every index of the hardware is below 4096, so every store keeps the canonical form (R32, R35). -/
theorem memory_store_wf (m : Memory) (hm : m.wf) (i : Index) (v : Byte) : (m.set (bufferAddress i) v).wf :=
  memory_set_wf m hm _ (BitVec.isLt i) v

theorem storeAll_succ (m : Memory) (v : Nat → Byte) (n : Nat) :
    storeAll m v (n + 1) = (storeAll m v n).set n (v n) := by
  simp [storeAll, List.range_succ]

/-- The bytes of one READ keep the canonical form. -/
theorem storeAll_wf (m : Memory) (hm : m.wf) (v : Nat → Byte) (n : Nat) (hn : n ≤ 4096) : (storeAll m v n).wf := by
  induction n with
  | zero => exact hm
  | succ n ih =>
    rw [storeAll_succ]
    exact memory_set_wf _ (ih (by omega)) n (by omega) _

/-- RXBUF after the bytes of one READ, index by index. -/
theorem storeAll_get (m : Memory) (hm : m.wf) (v : Nat → Byte) (n : Nat) (hn : n ≤ 4096) (i : Nat) :
    (storeAll m v n).get i = if i < n then v i else m.get i := by
  induction n with
  | zero => simp [storeAll]
  | succ n ih =>
    rw [storeAll_succ]
    by_cases h : i = n
    · subst h
      rw [memory_get_set_same _ (storeAll_wf m hm v i (by omega)).1, if_pos (by omega)]
    · rw [memory_get_set_other _ _ _ _ h, ih (by omega)]
      by_cases h' : i < n
      · rw [if_pos h', if_pos (by omega)]
      · rw [if_neg h', if_neg (by omega)]

/-- A canonical buffer is what it reads as: two that read alike are equal. -/
theorem memory_ext (m k : Memory) (hm : m.wf) (hk : k.wf) (h : ∀ i, m.get i = k.get i) : m = k := by
  induction m generalizing k with
  | nil =>
    cases k with
    | nil => rfl
    | cons c k =>
      have := h c.1
      rw [memory_get_cons, if_pos rfl] at this
      exact absurd this.symm (hk.2 c (by simp)).1
  | cons c m ih =>
    cases k with
    | nil =>
      have := h c.1
      rw [memory_get_cons, if_pos rfl] at this
      exact absurd this (hm.2 c (by simp)).1
    | cons e k =>
      have hp := List.pairwise_cons.mp hm.1
      have hq := List.pairwise_cons.mp hk.1
      have hidx : c.1 = e.1 := by
        rcases Nat.lt_trichotomy c.1 e.1 with hlt | heq | hgt
        · have hb : Memory.get (e :: k) c.1 = Memory.fill := by
            apply memory_get_of_below
            intro d hd
            rcases List.mem_cons.mp hd with rfl | hd
            · exact hlt
            · exact Nat.lt_trans hlt (hq.1 d hd)
          have := h c.1
          rw [memory_get_cons, if_pos rfl, hb] at this
          exact absurd this (hm.2 c (by simp)).1
        · exact heq
        · have hb : Memory.get (c :: m) e.1 = Memory.fill := by
            apply memory_get_of_below
            intro d hd
            rcases List.mem_cons.mp hd with rfl | hd
            · exact hgt
            · exact Nat.lt_trans hgt (hp.1 d hd)
          have := h e.1
          rw [hb, memory_get_cons, if_pos rfl] at this
          exact absurd this.symm (hk.2 e (by simp)).1
      have hbyte : c.2 = e.2 := by
        have := h c.1
        rwa [memory_get_cons, if_pos rfl, memory_get_cons, if_pos hidx] at this
      have hce : c = e := Prod.ext hidx hbyte
      subst hce
      congr 1
      refine ih k ⟨hp.2, fun d hd => hm.2 d (by simp [hd])⟩ ⟨hq.2, fun d hd => hk.2 d (by simp [hd])⟩ ?_
      intro i
      by_cases hi : i = c.1
      · subst hi
        rw [memory_get_of_below m c.1 hp.1, memory_get_of_below k c.1 hq.1]
      · have := h i
        rwa [memory_get_cons, if_neg hi, memory_get_cons, if_neg hi] at this

end Sys2Proof.Machine
end

