-- ==== Sys2Proof/Laws/State.lean ====
section
/-! SUPPORT. Each field of the state after each named update: one lemma a field, so that no proof unfolds an
update (R11 to R20, R25, R31, R32, R83). -/

namespace Sys2Proof.Machine

/-! ## `emit` -/

@[simp] theorem emit_cfg (s : State) (e : Event) : (s.emit e).cfg = s.cfg := rfl
@[simp] theorem emit_sclOut (s : State) (e : Event) : (s.emit e).sclOut = s.sclOut := rfl
@[simp] theorem emit_sdaOut (s : State) (e : Event) : (s.emit e).sdaOut = s.sdaOut := rfl
@[simp] theorem emit_sclMode (s : State) (e : Event) : (s.emit e).sclMode = s.sclMode := rfl
@[simp] theorem emit_sdaMode (s : State) (e : Event) : (s.emit e).sdaMode = s.sdaMode := rfl
@[simp] theorem emit_inited (s : State) (e : Event) : (s.emit e).inited = s.inited := rfl
@[simp] theorem emit_busy (s : State) (e : Event) : (s.emit e).busy = s.busy := rfl
@[simp] theorem emit_phase (s : State) (e : Event) : (s.emit e).phase = s.phase := rfl
@[simp] theorem emit_status (s : State) (e : Event) : (s.emit e).status = s.status := rfl
@[simp] theorem emit_ackf (s : State) (e : Event) : (s.emit e).ackf = s.ackf := rfl
@[simp] theorem emit_shr (s : State) (e : Event) : (s.emit e).shr = s.shr := rfl
@[simp] theorem emit_bitcnt (s : State) (e : Event) : (s.emit e).bitcnt = s.bitcnt := rfl
@[simp] theorem emit_idx (s : State) (e : Event) : (s.emit e).idx = s.idx := rfl
@[simp] theorem emit_rxbit (s : State) (e : Event) : (s.emit e).rxbit = s.rxbit := rfl
@[simp] theorem emit_op (s : State) (e : Event) : (s.emit e).op = s.op := rfl
@[simp] theorem emit_addr7 (s : State) (e : Event) : (s.emit e).addr7 = s.addr7 := rfl
@[simp] theorem emit_reg8 (s : State) (e : Event) : (s.emit e).reg8 = s.reg8 := rfl
@[simp] theorem emit_len (s : State) (e : Event) : (s.emit e).len = s.len := rfl
@[simp] theorem emit_upc (s : State) (e : Event) : (s.emit e).upc = s.upc + 1 := rfl
@[simp] theorem emit_todo (s : State) (e : Event) : (s.emit e).todo = s.todo := rfl
@[simp] theorem emit_txbuf (s : State) (e : Event) : (s.emit e).txbuf = s.txbuf := rfl
@[simp] theorem emit_rxbuf (s : State) (e : Event) : (s.emit e).rxbuf = s.rxbuf := rfl
@[simp] theorem emit_trace (s : State) (e : Event) : (s.emit e).trace = s.trace ++ [e] := rfl
@[simp] theorem emit_inbox (s : State) (e : Event) : (s.emit e).inbox = s.inbox := rfl
@[simp] theorem emit_rstFor (s : State) (e : Event) : (s.emit e).rstFor = s.rstFor := rfl
@[simp] theorem emit_pace (s : State) (e : Event) : (s.emit e).pace = s.pace := rfl
@[simp] theorem emit_script (s : State) (e : Event) : (s.emit e).script = s.script := rfl
@[simp] theorem emit_reads (s : State) (e : Event) : (s.emit e).reads = s.reads := rfl

/-! ## `setLatch` -/

@[simp] theorem setLatch_cfg (s : State) (p : Pin) (l : Level) : (s.setLatch p l).cfg = s.cfg := by cases p <;> rfl
@[simp] theorem setLatch_sclMode (s : State) (p : Pin) (l : Level) : (s.setLatch p l).sclMode = s.sclMode := by cases p <;> rfl
@[simp] theorem setLatch_sdaMode (s : State) (p : Pin) (l : Level) : (s.setLatch p l).sdaMode = s.sdaMode := by cases p <;> rfl
@[simp] theorem setLatch_inited (s : State) (p : Pin) (l : Level) : (s.setLatch p l).inited = s.inited := by cases p <;> rfl
@[simp] theorem setLatch_busy (s : State) (p : Pin) (l : Level) : (s.setLatch p l).busy = s.busy := by cases p <;> rfl
@[simp] theorem setLatch_phase (s : State) (p : Pin) (l : Level) : (s.setLatch p l).phase = s.phase := by cases p <;> rfl
@[simp] theorem setLatch_status (s : State) (p : Pin) (l : Level) : (s.setLatch p l).status = s.status := by cases p <;> rfl
@[simp] theorem setLatch_ackf (s : State) (p : Pin) (l : Level) : (s.setLatch p l).ackf = s.ackf := by cases p <;> rfl
@[simp] theorem setLatch_shr (s : State) (p : Pin) (l : Level) : (s.setLatch p l).shr = s.shr := by cases p <;> rfl
@[simp] theorem setLatch_bitcnt (s : State) (p : Pin) (l : Level) : (s.setLatch p l).bitcnt = s.bitcnt := by cases p <;> rfl
@[simp] theorem setLatch_idx (s : State) (p : Pin) (l : Level) : (s.setLatch p l).idx = s.idx := by cases p <;> rfl
@[simp] theorem setLatch_rxbit (s : State) (p : Pin) (l : Level) : (s.setLatch p l).rxbit = s.rxbit := by cases p <;> rfl
@[simp] theorem setLatch_op (s : State) (p : Pin) (l : Level) : (s.setLatch p l).op = s.op := by cases p <;> rfl
@[simp] theorem setLatch_addr7 (s : State) (p : Pin) (l : Level) : (s.setLatch p l).addr7 = s.addr7 := by cases p <;> rfl
@[simp] theorem setLatch_reg8 (s : State) (p : Pin) (l : Level) : (s.setLatch p l).reg8 = s.reg8 := by cases p <;> rfl
@[simp] theorem setLatch_len (s : State) (p : Pin) (l : Level) : (s.setLatch p l).len = s.len := by cases p <;> rfl
@[simp] theorem setLatch_upc (s : State) (p : Pin) (l : Level) : (s.setLatch p l).upc = s.upc := by cases p <;> rfl
@[simp] theorem setLatch_todo (s : State) (p : Pin) (l : Level) : (s.setLatch p l).todo = s.todo := by cases p <;> rfl
@[simp] theorem setLatch_txbuf (s : State) (p : Pin) (l : Level) : (s.setLatch p l).txbuf = s.txbuf := by cases p <;> rfl
@[simp] theorem setLatch_rxbuf (s : State) (p : Pin) (l : Level) : (s.setLatch p l).rxbuf = s.rxbuf := by cases p <;> rfl
@[simp] theorem setLatch_trace (s : State) (p : Pin) (l : Level) : (s.setLatch p l).trace = s.trace := by cases p <;> rfl
@[simp] theorem setLatch_inbox (s : State) (p : Pin) (l : Level) : (s.setLatch p l).inbox = s.inbox := by cases p <;> rfl
@[simp] theorem setLatch_rstFor (s : State) (p : Pin) (l : Level) : (s.setLatch p l).rstFor = s.rstFor := by cases p <;> rfl
@[simp] theorem setLatch_pace (s : State) (p : Pin) (l : Level) : (s.setLatch p l).pace = s.pace := by cases p <;> rfl
@[simp] theorem setLatch_script (s : State) (p : Pin) (l : Level) : (s.setLatch p l).script = s.script := by cases p <;> rfl
@[simp] theorem setLatch_reads (s : State) (p : Pin) (l : Level) : (s.setLatch p l).reads = s.reads := by cases p <;> rfl
@[simp] theorem setLatch_scl_sclOut (s : State) (l : Level) : (s.setLatch .scl l).sclOut = l.bit := rfl
@[simp] theorem setLatch_sda_sclOut (s : State) (l : Level) : (s.setLatch .sda l).sclOut = s.sclOut := rfl
@[simp] theorem setLatch_scl_sdaOut (s : State) (l : Level) : (s.setLatch .scl l).sdaOut = s.sdaOut := rfl
@[simp] theorem setLatch_sda_sdaOut (s : State) (l : Level) : (s.setLatch .sda l).sdaOut = l.bit := rfl

/-! ## `configurePin` -/

@[simp] theorem configurePin_cfg (s : State) (p : Pin) : (s.configurePin p).cfg = s.cfg := by cases p <;> rfl
@[simp] theorem configurePin_sclOut (s : State) (p : Pin) : (s.configurePin p).sclOut = s.sclOut := by cases p <;> rfl
@[simp] theorem configurePin_sdaOut (s : State) (p : Pin) : (s.configurePin p).sdaOut = s.sdaOut := by cases p <;> rfl
@[simp] theorem configurePin_inited (s : State) (p : Pin) : (s.configurePin p).inited = s.inited := by cases p <;> rfl
@[simp] theorem configurePin_busy (s : State) (p : Pin) : (s.configurePin p).busy = s.busy := by cases p <;> rfl
@[simp] theorem configurePin_phase (s : State) (p : Pin) : (s.configurePin p).phase = s.phase := by cases p <;> rfl
@[simp] theorem configurePin_status (s : State) (p : Pin) : (s.configurePin p).status = s.status := by cases p <;> rfl
@[simp] theorem configurePin_ackf (s : State) (p : Pin) : (s.configurePin p).ackf = s.ackf := by cases p <;> rfl
@[simp] theorem configurePin_shr (s : State) (p : Pin) : (s.configurePin p).shr = s.shr := by cases p <;> rfl
@[simp] theorem configurePin_bitcnt (s : State) (p : Pin) : (s.configurePin p).bitcnt = s.bitcnt := by cases p <;> rfl
@[simp] theorem configurePin_idx (s : State) (p : Pin) : (s.configurePin p).idx = s.idx := by cases p <;> rfl
@[simp] theorem configurePin_rxbit (s : State) (p : Pin) : (s.configurePin p).rxbit = s.rxbit := by cases p <;> rfl
@[simp] theorem configurePin_op (s : State) (p : Pin) : (s.configurePin p).op = s.op := by cases p <;> rfl
@[simp] theorem configurePin_addr7 (s : State) (p : Pin) : (s.configurePin p).addr7 = s.addr7 := by cases p <;> rfl
@[simp] theorem configurePin_reg8 (s : State) (p : Pin) : (s.configurePin p).reg8 = s.reg8 := by cases p <;> rfl
@[simp] theorem configurePin_len (s : State) (p : Pin) : (s.configurePin p).len = s.len := by cases p <;> rfl
@[simp] theorem configurePin_upc (s : State) (p : Pin) : (s.configurePin p).upc = s.upc := by cases p <;> rfl
@[simp] theorem configurePin_todo (s : State) (p : Pin) : (s.configurePin p).todo = s.todo := by cases p <;> rfl
@[simp] theorem configurePin_txbuf (s : State) (p : Pin) : (s.configurePin p).txbuf = s.txbuf := by cases p <;> rfl
@[simp] theorem configurePin_rxbuf (s : State) (p : Pin) : (s.configurePin p).rxbuf = s.rxbuf := by cases p <;> rfl
@[simp] theorem configurePin_trace (s : State) (p : Pin) : (s.configurePin p).trace = s.trace := by cases p <;> rfl
@[simp] theorem configurePin_inbox (s : State) (p : Pin) : (s.configurePin p).inbox = s.inbox := by cases p <;> rfl
@[simp] theorem configurePin_rstFor (s : State) (p : Pin) : (s.configurePin p).rstFor = s.rstFor := by cases p <;> rfl
@[simp] theorem configurePin_pace (s : State) (p : Pin) : (s.configurePin p).pace = s.pace := by cases p <;> rfl
@[simp] theorem configurePin_script (s : State) (p : Pin) : (s.configurePin p).script = s.script := by cases p <;> rfl
@[simp] theorem configurePin_reads (s : State) (p : Pin) : (s.configurePin p).reads = s.reads := by cases p <;> rfl
@[simp] theorem configurePin_scl_sclMode (s : State) : (s.configurePin .scl).sclMode = .openDrainOutput := rfl
@[simp] theorem configurePin_sda_sclMode (s : State) : (s.configurePin .sda).sclMode = s.sclMode := rfl
@[simp] theorem configurePin_scl_sdaMode (s : State) : (s.configurePin .scl).sdaMode = s.sdaMode := rfl
@[simp] theorem configurePin_sda_sdaMode (s : State) : (s.configurePin .sda).sdaMode = .openDrainOutput := rfl

/-! ## `sampleSda` -/

@[simp] theorem sampleSda_cfg (s : State) : (s.sampleSda).cfg = s.cfg := rfl
@[simp] theorem sampleSda_sclOut (s : State) : (s.sampleSda).sclOut = s.sclOut := rfl
@[simp] theorem sampleSda_sdaOut (s : State) : (s.sampleSda).sdaOut = s.sdaOut := rfl
@[simp] theorem sampleSda_sclMode (s : State) : (s.sampleSda).sclMode = s.sclMode := rfl
@[simp] theorem sampleSda_sdaMode (s : State) : (s.sampleSda).sdaMode = s.sdaMode := rfl
@[simp] theorem sampleSda_inited (s : State) : (s.sampleSda).inited = s.inited := rfl
@[simp] theorem sampleSda_busy (s : State) : (s.sampleSda).busy = s.busy := rfl
@[simp] theorem sampleSda_phase (s : State) : (s.sampleSda).phase = s.phase := rfl
@[simp] theorem sampleSda_status (s : State) : (s.sampleSda).status = s.status := rfl
@[simp] theorem sampleSda_ackf (s : State) : (s.sampleSda).ackf = s.ackf := rfl
@[simp] theorem sampleSda_shr (s : State) : (s.sampleSda).shr = s.shr := rfl
@[simp] theorem sampleSda_bitcnt (s : State) : (s.sampleSda).bitcnt = s.bitcnt := rfl
@[simp] theorem sampleSda_idx (s : State) : (s.sampleSda).idx = s.idx := rfl
@[simp] theorem sampleSda_rxbit (s : State) : (s.sampleSda).rxbit = (lineLevel s.sdaOut (s.answer 0)).bit := rfl
@[simp] theorem sampleSda_op (s : State) : (s.sampleSda).op = s.op := rfl
@[simp] theorem sampleSda_addr7 (s : State) : (s.sampleSda).addr7 = s.addr7 := rfl
@[simp] theorem sampleSda_reg8 (s : State) : (s.sampleSda).reg8 = s.reg8 := rfl
@[simp] theorem sampleSda_len (s : State) : (s.sampleSda).len = s.len := rfl
@[simp] theorem sampleSda_upc (s : State) : (s.sampleSda).upc = s.upc + 1 := rfl
@[simp] theorem sampleSda_todo (s : State) : (s.sampleSda).todo = s.todo := rfl
@[simp] theorem sampleSda_txbuf (s : State) : (s.sampleSda).txbuf = s.txbuf := rfl
@[simp] theorem sampleSda_rxbuf (s : State) : (s.sampleSda).rxbuf = s.rxbuf := rfl
@[simp] theorem sampleSda_trace (s : State) : (s.sampleSda).trace = s.trace ++ [.r (lineLevel s.sdaOut (s.answer 0))] := rfl
@[simp] theorem sampleSda_inbox (s : State) : (s.sampleSda).inbox = s.inbox := rfl
@[simp] theorem sampleSda_rstFor (s : State) : (s.sampleSda).rstFor = s.rstFor := rfl
@[simp] theorem sampleSda_pace (s : State) : (s.sampleSda).pace = s.pace := rfl
@[simp] theorem sampleSda_script (s : State) : (s.sampleSda).script = s.script.tail := rfl
@[simp] theorem sampleSda_reads (s : State) : (s.sampleSda).reads = s.reads + 1 := rfl

/-! ## `loadByte` -/

@[simp] theorem loadByte_cfg (s : State) : (s.loadByte).cfg = s.cfg := rfl
@[simp] theorem loadByte_sclOut (s : State) : (s.loadByte).sclOut = s.sclOut := rfl
@[simp] theorem loadByte_sdaOut (s : State) : (s.loadByte).sdaOut = s.sdaOut := rfl
@[simp] theorem loadByte_sclMode (s : State) : (s.loadByte).sclMode = s.sclMode := rfl
@[simp] theorem loadByte_sdaMode (s : State) : (s.loadByte).sdaMode = s.sdaMode := rfl
@[simp] theorem loadByte_inited (s : State) : (s.loadByte).inited = s.inited := rfl
@[simp] theorem loadByte_busy (s : State) : (s.loadByte).busy = s.busy := rfl
@[simp] theorem loadByte_phase (s : State) : (s.loadByte).phase = s.phase := rfl
@[simp] theorem loadByte_status (s : State) : (s.loadByte).status = s.status := rfl
@[simp] theorem loadByte_ackf (s : State) : (s.loadByte).ackf = s.ackf := rfl
@[simp] theorem loadByte_shr (s : State) : (s.loadByte).shr = s.txbuf.get (bufferAddress s.idx) := rfl
@[simp] theorem loadByte_bitcnt (s : State) : (s.loadByte).bitcnt = s.bitcnt := rfl
@[simp] theorem loadByte_idx (s : State) : (s.loadByte).idx = s.idx := rfl
@[simp] theorem loadByte_rxbit (s : State) : (s.loadByte).rxbit = s.rxbit := rfl
@[simp] theorem loadByte_op (s : State) : (s.loadByte).op = s.op := rfl
@[simp] theorem loadByte_addr7 (s : State) : (s.loadByte).addr7 = s.addr7 := rfl
@[simp] theorem loadByte_reg8 (s : State) : (s.loadByte).reg8 = s.reg8 := rfl
@[simp] theorem loadByte_len (s : State) : (s.loadByte).len = s.len := rfl
@[simp] theorem loadByte_upc (s : State) : (s.loadByte).upc = s.upc + 1 := rfl
@[simp] theorem loadByte_todo (s : State) : (s.loadByte).todo = s.todo := rfl
@[simp] theorem loadByte_txbuf (s : State) : (s.loadByte).txbuf = s.txbuf := rfl
@[simp] theorem loadByte_rxbuf (s : State) : (s.loadByte).rxbuf = s.rxbuf := rfl
@[simp] theorem loadByte_trace (s : State) : (s.loadByte).trace = s.trace ++ [.ld s.idx (s.txbuf.get (bufferAddress s.idx))] := rfl
@[simp] theorem loadByte_inbox (s : State) : (s.loadByte).inbox = s.inbox := rfl
@[simp] theorem loadByte_rstFor (s : State) : (s.loadByte).rstFor = s.rstFor := rfl
@[simp] theorem loadByte_pace (s : State) : (s.loadByte).pace = s.pace := rfl
@[simp] theorem loadByte_script (s : State) : (s.loadByte).script = s.script := rfl
@[simp] theorem loadByte_reads (s : State) : (s.loadByte).reads = s.reads := rfl

/-! ## `storeByte` -/

@[simp] theorem storeByte_cfg (s : State) : (s.storeByte).cfg = s.cfg := rfl
@[simp] theorem storeByte_sclOut (s : State) : (s.storeByte).sclOut = s.sclOut := rfl
@[simp] theorem storeByte_sdaOut (s : State) : (s.storeByte).sdaOut = s.sdaOut := rfl
@[simp] theorem storeByte_sclMode (s : State) : (s.storeByte).sclMode = s.sclMode := rfl
@[simp] theorem storeByte_sdaMode (s : State) : (s.storeByte).sdaMode = s.sdaMode := rfl
@[simp] theorem storeByte_inited (s : State) : (s.storeByte).inited = s.inited := rfl
@[simp] theorem storeByte_busy (s : State) : (s.storeByte).busy = s.busy := rfl
@[simp] theorem storeByte_phase (s : State) : (s.storeByte).phase = s.phase := rfl
@[simp] theorem storeByte_status (s : State) : (s.storeByte).status = s.status := rfl
@[simp] theorem storeByte_ackf (s : State) : (s.storeByte).ackf = s.ackf := rfl
@[simp] theorem storeByte_shr (s : State) : (s.storeByte).shr = s.shr := rfl
@[simp] theorem storeByte_bitcnt (s : State) : (s.storeByte).bitcnt = s.bitcnt := rfl
@[simp] theorem storeByte_idx (s : State) : (s.storeByte).idx = s.idx := rfl
@[simp] theorem storeByte_rxbit (s : State) : (s.storeByte).rxbit = s.rxbit := rfl
@[simp] theorem storeByte_op (s : State) : (s.storeByte).op = s.op := rfl
@[simp] theorem storeByte_addr7 (s : State) : (s.storeByte).addr7 = s.addr7 := rfl
@[simp] theorem storeByte_reg8 (s : State) : (s.storeByte).reg8 = s.reg8 := rfl
@[simp] theorem storeByte_len (s : State) : (s.storeByte).len = s.len := rfl
@[simp] theorem storeByte_upc (s : State) : (s.storeByte).upc = s.upc + 1 := rfl
@[simp] theorem storeByte_todo (s : State) : (s.storeByte).todo = s.todo := rfl
@[simp] theorem storeByte_txbuf (s : State) : (s.storeByte).txbuf = s.txbuf := rfl
@[simp] theorem storeByte_rxbuf (s : State) : (s.storeByte).rxbuf = s.rxbuf.set (bufferAddress s.idx) s.shr := rfl
@[simp] theorem storeByte_trace (s : State) : (s.storeByte).trace = s.trace ++ [.st s.idx s.shr] := rfl
@[simp] theorem storeByte_inbox (s : State) : (s.storeByte).inbox = s.inbox := rfl
@[simp] theorem storeByte_rstFor (s : State) : (s.storeByte).rstFor = s.rstFor := rfl
@[simp] theorem storeByte_pace (s : State) : (s.storeByte).pace = s.pace := rfl
@[simp] theorem storeByte_script (s : State) : (s.storeByte).script = s.script := rfl
@[simp] theorem storeByte_reads (s : State) : (s.storeByte).reads = s.reads := rfl

/-! ## `respond` -/

@[simp] theorem respond_cfg (s : State) (st : Status) : (s.respond st).cfg = s.cfg := rfl
@[simp] theorem respond_sclOut (s : State) (st : Status) : (s.respond st).sclOut = s.sclOut := rfl
@[simp] theorem respond_sdaOut (s : State) (st : Status) : (s.respond st).sdaOut = s.sdaOut := rfl
@[simp] theorem respond_sclMode (s : State) (st : Status) : (s.respond st).sclMode = s.sclMode := rfl
@[simp] theorem respond_sdaMode (s : State) (st : Status) : (s.respond st).sdaMode = s.sdaMode := rfl
@[simp] theorem respond_inited (s : State) (st : Status) : (s.respond st).inited = s.inited := rfl
@[simp] theorem respond_busy (s : State) (st : Status) : (s.respond st).busy = false := rfl
@[simp] theorem respond_phase (s : State) (st : Status) : (s.respond st).phase = s.phase := rfl
@[simp] theorem respond_status (s : State) (st : Status) : (s.respond st).status = st := rfl
@[simp] theorem respond_ackf (s : State) (st : Status) : (s.respond st).ackf = s.ackf := rfl
@[simp] theorem respond_shr (s : State) (st : Status) : (s.respond st).shr = s.shr := rfl
@[simp] theorem respond_bitcnt (s : State) (st : Status) : (s.respond st).bitcnt = s.bitcnt := rfl
@[simp] theorem respond_idx (s : State) (st : Status) : (s.respond st).idx = s.idx := rfl
@[simp] theorem respond_rxbit (s : State) (st : Status) : (s.respond st).rxbit = s.rxbit := rfl
@[simp] theorem respond_op (s : State) (st : Status) : (s.respond st).op = s.op := rfl
@[simp] theorem respond_addr7 (s : State) (st : Status) : (s.respond st).addr7 = s.addr7 := rfl
@[simp] theorem respond_reg8 (s : State) (st : Status) : (s.respond st).reg8 = s.reg8 := rfl
@[simp] theorem respond_len (s : State) (st : Status) : (s.respond st).len = s.len := rfl
@[simp] theorem respond_upc (s : State) (st : Status) : (s.respond st).upc = s.upc + 1 := rfl
@[simp] theorem respond_todo (s : State) (st : Status) : (s.respond st).todo = s.todo := rfl
@[simp] theorem respond_txbuf (s : State) (st : Status) : (s.respond st).txbuf = s.txbuf := rfl
@[simp] theorem respond_rxbuf (s : State) (st : Status) : (s.respond st).rxbuf = s.rxbuf := rfl
@[simp] theorem respond_trace (s : State) (st : Status) : (s.respond st).trace = s.trace ++ [.rsp st] := rfl
@[simp] theorem respond_inbox (s : State) (st : Status) : (s.respond st).inbox = s.inbox := rfl
@[simp] theorem respond_rstFor (s : State) (st : Status) : (s.respond st).rstFor = s.rstFor := rfl
@[simp] theorem respond_pace (s : State) (st : Status) : (s.respond st).pace = s.pace := rfl
@[simp] theorem respond_script (s : State) (st : Status) : (s.respond st).script = s.script := rfl
@[simp] theorem respond_reads (s : State) (st : Status) : (s.respond st).reads = s.reads := rfl

/-! ## `accept` -/

@[simp] theorem accept_cfg (s : State) : (s.accept).cfg = s.cfg := rfl
@[simp] theorem accept_sclOut (s : State) : (s.accept).sclOut = s.sclOut := rfl
@[simp] theorem accept_sdaOut (s : State) : (s.accept).sdaOut = s.sdaOut := rfl
@[simp] theorem accept_sclMode (s : State) : (s.accept).sclMode = s.sclMode := rfl
@[simp] theorem accept_sdaMode (s : State) : (s.accept).sdaMode = s.sdaMode := rfl
@[simp] theorem accept_inited (s : State) : (s.accept).inited = s.inited := rfl
@[simp] theorem accept_busy (s : State) : (s.accept).busy = true := rfl
@[simp] theorem accept_phase (s : State) : (s.accept).phase = s.phase := rfl
@[simp] theorem accept_status (s : State) : (s.accept).status = s.status := rfl
@[simp] theorem accept_ackf (s : State) : (s.accept).ackf = s.ackf := rfl
@[simp] theorem accept_shr (s : State) : (s.accept).shr = s.shr := rfl
@[simp] theorem accept_bitcnt (s : State) : (s.accept).bitcnt = s.bitcnt := rfl
@[simp] theorem accept_idx (s : State) : (s.accept).idx = s.idx := rfl
@[simp] theorem accept_rxbit (s : State) : (s.accept).rxbit = s.rxbit := rfl
@[simp] theorem accept_op (s : State) : (s.accept).op = s.op := rfl
@[simp] theorem accept_addr7 (s : State) : (s.accept).addr7 = s.addr7 := rfl
@[simp] theorem accept_reg8 (s : State) : (s.accept).reg8 = s.reg8 := rfl
@[simp] theorem accept_len (s : State) : (s.accept).len = s.len := rfl
@[simp] theorem accept_upc (s : State) : (s.accept).upc = 0 := rfl
@[simp] theorem accept_todo (s : State) : (s.accept).todo = s.todo := rfl
@[simp] theorem accept_txbuf (s : State) : (s.accept).txbuf = s.txbuf := rfl
@[simp] theorem accept_rxbuf (s : State) : (s.accept).rxbuf = s.rxbuf := rfl
@[simp] theorem accept_trace (s : State) : (s.accept).trace = [] := rfl
@[simp] theorem accept_inbox (s : State) : (s.accept).inbox = s.inbox := rfl
@[simp] theorem accept_rstFor (s : State) : (s.accept).rstFor = s.rstFor := rfl
@[simp] theorem accept_pace (s : State) : (s.accept).pace = s.pace := rfl
@[simp] theorem accept_script (s : State) : (s.accept).script = s.script := rfl
@[simp] theorem accept_reads (s : State) : (s.accept).reads = s.reads := rfl

/-! ## `latch` -/

@[simp] theorem latch_cfg (s : State) (op : BitVec 4) (a : Addr7) (r : Byte) (n : Index) : (s.latch op a r n).cfg = s.cfg := rfl
@[simp] theorem latch_sclOut (s : State) (op : BitVec 4) (a : Addr7) (r : Byte) (n : Index) : (s.latch op a r n).sclOut = s.sclOut := rfl
@[simp] theorem latch_sdaOut (s : State) (op : BitVec 4) (a : Addr7) (r : Byte) (n : Index) : (s.latch op a r n).sdaOut = s.sdaOut := rfl
@[simp] theorem latch_sclMode (s : State) (op : BitVec 4) (a : Addr7) (r : Byte) (n : Index) : (s.latch op a r n).sclMode = s.sclMode := rfl
@[simp] theorem latch_sdaMode (s : State) (op : BitVec 4) (a : Addr7) (r : Byte) (n : Index) : (s.latch op a r n).sdaMode = s.sdaMode := rfl
@[simp] theorem latch_inited (s : State) (op : BitVec 4) (a : Addr7) (r : Byte) (n : Index) : (s.latch op a r n).inited = s.inited := rfl
@[simp] theorem latch_busy (s : State) (op : BitVec 4) (a : Addr7) (r : Byte) (n : Index) : (s.latch op a r n).busy = s.busy := rfl
@[simp] theorem latch_phase (s : State) (op : BitVec 4) (a : Addr7) (r : Byte) (n : Index) : (s.latch op a r n).phase = s.phase := rfl
@[simp] theorem latch_status (s : State) (op : BitVec 4) (a : Addr7) (r : Byte) (n : Index) : (s.latch op a r n).status = s.status := rfl
@[simp] theorem latch_ackf (s : State) (op : BitVec 4) (a : Addr7) (r : Byte) (n : Index) : (s.latch op a r n).ackf = s.ackf := rfl
@[simp] theorem latch_shr (s : State) (op : BitVec 4) (a : Addr7) (r : Byte) (n : Index) : (s.latch op a r n).shr = s.shr := rfl
@[simp] theorem latch_bitcnt (s : State) (op : BitVec 4) (a : Addr7) (r : Byte) (n : Index) : (s.latch op a r n).bitcnt = s.bitcnt := rfl
@[simp] theorem latch_idx (s : State) (op : BitVec 4) (a : Addr7) (r : Byte) (n : Index) : (s.latch op a r n).idx = s.idx := rfl
@[simp] theorem latch_rxbit (s : State) (op : BitVec 4) (a : Addr7) (r : Byte) (n : Index) : (s.latch op a r n).rxbit = s.rxbit := rfl
@[simp] theorem latch_op (s : State) (op : BitVec 4) (a : Addr7) (r : Byte) (n : Index) : (s.latch op a r n).op = op := rfl
@[simp] theorem latch_addr7 (s : State) (op : BitVec 4) (a : Addr7) (r : Byte) (n : Index) : (s.latch op a r n).addr7 = a := rfl
@[simp] theorem latch_reg8 (s : State) (op : BitVec 4) (a : Addr7) (r : Byte) (n : Index) : (s.latch op a r n).reg8 = r := rfl
@[simp] theorem latch_len (s : State) (op : BitVec 4) (a : Addr7) (r : Byte) (n : Index) : (s.latch op a r n).len = n := rfl
@[simp] theorem latch_upc (s : State) (op : BitVec 4) (a : Addr7) (r : Byte) (n : Index) : (s.latch op a r n).upc = s.upc := rfl
@[simp] theorem latch_todo (s : State) (op : BitVec 4) (a : Addr7) (r : Byte) (n : Index) : (s.latch op a r n).todo = s.todo := rfl
@[simp] theorem latch_txbuf (s : State) (op : BitVec 4) (a : Addr7) (r : Byte) (n : Index) : (s.latch op a r n).txbuf = s.txbuf := rfl
@[simp] theorem latch_rxbuf (s : State) (op : BitVec 4) (a : Addr7) (r : Byte) (n : Index) : (s.latch op a r n).rxbuf = s.rxbuf := rfl
@[simp] theorem latch_trace (s : State) (op : BitVec 4) (a : Addr7) (r : Byte) (n : Index) : (s.latch op a r n).trace = s.trace := rfl
@[simp] theorem latch_inbox (s : State) (op : BitVec 4) (a : Addr7) (r : Byte) (n : Index) : (s.latch op a r n).inbox = s.inbox := rfl
@[simp] theorem latch_rstFor (s : State) (op : BitVec 4) (a : Addr7) (r : Byte) (n : Index) : (s.latch op a r n).rstFor = s.rstFor := rfl
@[simp] theorem latch_pace (s : State) (op : BitVec 4) (a : Addr7) (r : Byte) (n : Index) : (s.latch op a r n).pace = s.pace := rfl
@[simp] theorem latch_script (s : State) (op : BitVec 4) (a : Addr7) (r : Byte) (n : Index) : (s.latch op a r n).script = s.script := rfl
@[simp] theorem latch_reads (s : State) (op : BitVec 4) (a : Addr7) (r : Byte) (n : Index) : (s.latch op a r n).reads = s.reads := rfl

end Sys2Proof.Machine
end

