-- ==== Sys2Proof/Laws/Run.lean ====
section
/-! SUPPORT. What running a position does: the run of two lists, of each micro-operation's list, and the
agreement of the event pace with the whole run. -/

namespace Sys2Proof.Machine

/-! ## Running lists -/

@[simp] theorem run_nil (s : State) : run [] s = s := rfl

/-- An action that is no abort test runs. -/
theorem run_cons (a : Act) (as : List Act) (s : State) (h : a ≠ .abortIfNack) :
    run (a :: as) s = run as (a.apply s) := by
  simp [run, h]

/-- The abort test of an acknowledged byte does nothing (R84). -/
theorem run_abortIfNack_acked (as : List Act) (s : State) (h : s.ackf = true) :
    run (.abortIfNack :: as) s = run as s := by
  simp [run, h, Act.apply]

/-- The abort test of a byte that was not acknowledged leaves out whatever follows (R84, R104). -/
theorem run_abortIfNack_nacked (as : List Act) (s : State) (h : s.ackf = false) :
    run (.abortIfNack :: as) s = applyAll abortActs s := by
  simp [run, h]

/-- A list without abort tests. -/
abbrev Straight (l : List Act) : Prop := ∀ a ∈ l, a ≠ .abortIfNack

theorem run_append_of_straight (l r : List Act) (s : State) (h : Straight l) :
    run (l ++ r) s = run r (run l s) := by
  induction l generalizing s with
  | nil => rfl
  | cons a l ih =>
    have ha : a ≠ .abortIfNack := h a (by simp)
    rw [List.cons_append, run_cons _ _ _ ha, run_cons _ _ _ ha]
    exact ih _ fun b hb => h b (by simp [hb])

theorem run_eq_applyAll (l : List Act) (s : State) (h : Straight l) : run l s = applyAll l s := by
  induction l generalizing s with
  | nil => rfl
  | cons a l ih =>
    rw [run_cons _ _ _ (h a (by simp))]
    exact ih _ fun b hb => h b (by simp [hb])

theorem straight_abortActs : Straight abortActs := by decide

/-! ## The micro-operations -/

/-- START (R66). -/
theorem run_startActs (s : State) (as : List Act) :
    run (startActs ++ as) s = run as { s with
      sclOut := false, sdaOut := false, phase := .started,
      trace := s.trace ++ startTrace s.cfg.tHalf, upc := s.upc + 6 } := by
  simp [startActs, run, Act.apply, State.setLatch, State.emit, startTrace, Level.bit]

/-- STOP (R67). -/
theorem run_stopActs (s : State) (as : List Act) :
    run (stopActs ++ as) s = run as { s with
      sclOut := true, sdaOut := true, phase := .stopped,
      trace := s.trace ++ stopTrace s.cfg.tHalf, upc := s.upc + 6 } := by
  simp [stopActs, run, Act.apply, State.setLatch, State.emit, stopTrace, Level.bit]

/-- The abort (R104). -/
theorem applyAll_abortActs (s : State) :
    applyAll abortActs s = { s with
      sclOut := true, sdaOut := true, phase := .stopped, status := .nack, busy := false,
      trace := s.trace ++ stopTrace s.cfg.tHalf ++ [.rsp .nack], upc := s.upc + 7 } := by
  simp [abortActs, stopActs, applyAll, Act.apply, State.respond, State.setLatch, State.emit, stopTrace, Level.bit]

/-- TXBIT b (R68). -/
theorem run_txbitActs (b : Bool) (s : State) (as : List Act) :
    run (txbitActs b ++ as) s = run as { s with
      sclOut := false, sdaOut := b,
      trace := s.trace ++ bitTrace s.cfg.tHalf b, upc := s.upc + 5 } := by
  cases b <;> simp [txbitActs, run, Act.apply, State.setLatch, State.emit, bitTrace, Level.bit, Level.ofBit]

/-- The answers still to come after `n` reads. -/
theorem answer_after (s t : State) (n k : Nat) (h : t.script = s.script.drop n) (hr : t.reads = s.reads + n) :
    t.answer k = s.answer (n + k) := by
  simp [State.answer, h, hr, Nat.add_assoc]

/-- RXBIT (R69): the answer is the environment's, the data latch being released. -/
theorem run_rxbitActs (s : State) (as : List Act) :
    run (rxbitActs ++ as) s = run as { s with
      sclOut := false, sdaOut := true, rxbit := (s.answer 0).bit,
      script := s.script.tail, reads := s.reads + 1,
      trace := s.trace ++ sampleTrace s.cfg.tHalf (s.answer 0), upc := s.upc + 5 } := by
  have h : ∀ t : State, t.script = s.script → t.reads = s.reads → t.answer 0 = s.answer 0 := by
    intro t h1 h2; simp [State.answer, h1, h2]
  simp [rxbitActs, run, Act.apply, State.setLatch, State.sampleSda, State.emit, sampleTrace, Level.bit,
    lineLevel, h]

/-- One turn of TXBYTE's loop (R76). -/
theorem run_sendBitActs (s : State) (as : List Act) :
    run (sendBitActs ++ as) s = run as { s with
      sclOut := false, sdaOut := topBit s.shr, shr := shiftLeft s.shr, bitcnt := s.bitcnt + 1#4,
      trace := s.trace ++ bitTrace s.cfg.tHalf (topBit s.shr), upc := s.upc + 5 } := by
  cases h : topBit s.shr <;>
    simp [sendBitActs, run, Act.apply, State.setLatch, State.emit, bitTrace, Level.bit, Level.ofBit, h]

theorem shiftLeft_eight (v : Byte) :
    shiftLeft (shiftLeft (shiftLeft (shiftLeft (shiftLeft (shiftLeft (shiftLeft (shiftLeft v))))))) = 0#8 := by
  revert v; decide

/-- TXBYTE's loop (R76): the bits of `SHR`, the most significant first. -/
theorem run_sendShrActs (s : State) (as : List Act) :
    run (sendShrActs ++ as) s = run as { s with
      sclOut := false, sdaOut := s.shr.getLsbD 0, shr := 0#8, bitcnt := 8#4,
      trace := s.trace ++ byteTrace s.cfg.tHalf s.shr, upc := s.upc + 40 } := by
  have e : sendShrActs ++ as = .clearBitcnt :: (sendBitActs ++ (sendBitActs ++ (sendBitActs ++ (sendBitActs ++
      (sendBitActs ++ (sendBitActs ++ (sendBitActs ++ (sendBitActs ++ as)))))))) := by
    simp [sendShrActs, List.replicate]
  rw [e, run_cons _ _ _ (by simp)]
  simp only [run_sendBitActs, Act.apply, shiftLeft_eight]
  simp [topBit, shiftLeft, byteTrace, msbFirst, Nat.add_assoc]

/-- TXBYTE v (R76). -/
theorem run_txbyteActs (v : Byte) (s : State) (as : List Act) :
    run (txbyteActs v ++ as) s = run as { s with
      sclOut := false, sdaOut := v.getLsbD 0, shr := 0#8, bitcnt := 8#4,
      trace := s.trace ++ byteTrace s.cfg.tHalf v, upc := s.upc + 40 } := by
  rw [txbyteActs, List.cons_append, run_cons _ _ _ (by simp)]
  exact run_sendShrActs _ _

/-- WACK (R79): RXBIT, and `ACKF` set when the answer is LOW. -/
theorem run_wackActs (s : State) (as : List Act) :
    run (wackActs ++ as) s = run as { s with
      sclOut := false, sdaOut := true, rxbit := (s.answer 0).bit, ackf := !(s.answer 0).bit,
      script := s.script.tail, reads := s.reads + 1,
      trace := s.trace ++ sampleTrace s.cfg.tHalf (s.answer 0), upc := s.upc + 5 } := by
  rw [wackActs, List.append_assoc, run_rxbitActs, List.cons_append, run_cons _ _ _ (by simp)]
  rfl

/-- One turn of RXBYTE's loop (R77). -/
theorem run_receiveBitActs (s : State) (as : List Act) :
    run (receiveBitActs ++ as) s = run as { s with
      sclOut := false, sdaOut := true, rxbit := (s.answer 0).bit,
      shr := shiftInBit s.shr (s.answer 0).bit, bitcnt := s.bitcnt + 1#4,
      script := s.script.tail, reads := s.reads + 1,
      trace := s.trace ++ sampleTrace s.cfg.tHalf (s.answer 0), upc := s.upc + 5 } := by
  rw [receiveBitActs, List.append_assoc, run_rxbitActs, List.cons_append, run_cons _ _ _ (by simp)]
  rfl

/-- `k` turns of RXBYTE's loop (R77): the answers go into `SHR` in order. -/
theorem run_receiveBits (k : Nat) (s : State) (as : List Act) (h : s.sdaOut = true) (hc : s.sclOut = false) :
    run ((List.replicate k receiveBitActs).flatten ++ as) s = run as { s with
      rxbit := if k = 0 then s.rxbit else (s.answer (k - 1)).bit,
      shr := (s.answers 0 k).foldl (fun v l => shiftInBit v l.bit) s.shr,
      bitcnt := s.bitcnt + BitVec.ofNat 4 k, script := s.script.drop k, reads := s.reads + k,
      trace := s.trace ++ (s.answers 0 k).flatMap (sampleTrace s.cfg.tHalf), upc := s.upc + 5 * k } := by
  induction k generalizing s with
  | zero => simp [State.answers]
  | succ k ih =>
    rw [List.replicate_succ, List.flatten_cons, List.append_assoc, run_receiveBitActs, ih _ rfl rfl]
    have hans : s.answers 0 (k + 1) = s.answer 0 :: (List.range k).map fun j => s.answer (1 + j) := by
      simp [State.answers, List.range_succ_eq_map, Function.comp_def, Nat.add_comm]
    have hshift : ∀ t : State, t.script = s.script.tail → t.reads = s.reads + 1 →
        ∀ j, t.answer j = s.answer (1 + j) :=
      fun t h1 h2 j => answer_after s t 1 j (by rw [h1]; simp) h2
    rw [hans]
    congr 1
    simp only [State.answers, Nat.zero_add]
    rw [State.mk.injEq]
    simp [h, hc, hshift]
    refine ⟨?_, ?_, by omega, by omega⟩
    · rw [BitVec.add_assoc, Nat.add_comm k 1, BitVec.ofNat_add]
    · cases k with
      | zero => rfl
      | succ j => simp [Nat.add_comm]

/-- RXBYTE a (R77): the byte of the eight answers goes to `SHR`, the first most significant. -/
theorem run_rxbyteActs (a : Bool) (s : State) (as : List Act) (hc : s.sclOut = false) :
    run (rxbyteActs a ++ as) s = run as { s with
      sclOut := false, sdaOut := !a, shr := s.byteRead 0, bitcnt := 8#4,
      rxbit := (s.answer 7).bit, script := s.script.drop 8, reads := s.reads + 8,
      trace := s.trace ++ receiveTrace s.cfg.tHalf (s.answers 0 8) a, upc := s.upc + 46 } := by
  rw [rxbyteActs, List.append_assoc, List.append_assoc, List.cons_append, List.cons_append, List.cons_append,
    List.nil_append, run_cons _ _ _ (by simp), run_cons _ _ _ (by simp), run_cons _ _ _ (by simp),
    run_receiveBits _ _ _ rfl (by simpa [Act.apply] using hc), run_txbitActs]
  have hans : ∀ t : State, t.script = s.script → t.reads = s.reads → ∀ j, t.answer j = s.answer j :=
    fun t h1 h2 j => by simpa using answer_after s t 0 j (by simpa using h1) (by simpa using h2)
  congr 1
  rw [State.mk.injEq]
  simp [Act.apply, State.setLatch, State.emit, State.answers, State.byteRead, byteOfBits, hans, receiveTrace,
    ackBit, Level.bit, List.foldl_map]

end Sys2Proof.Machine
end

