-- ==== Sys2Proof/Laws/Transactions.lean ====
section
/-! SUPPORT. What running the parts of a command's body does: a transmitted byte acknowledged or not, the address
phase, the data loops of WRITE and READ. -/

namespace Sys2Proof.Machine

/-! ## A transmitted byte -/

/-- The state after a transmitted byte answered LOW (R78, R81). -/
def State.afterSend (s : State) (es : List Event) : State :=
  { s with
    sclOut := false, sdaOut := true, shr := 0#8, bitcnt := 8#4, rxbit := false, ackf := true,
    script := s.script.tail, reads := s.reads + 1, trace := s.trace ++ es, upc := s.upc + es.length }

/-- The state after a transmitted byte answered HIGH and the abort (R104). -/
def State.afterAbort (s : State) (es : List Event) : State :=
  { s with
    sclOut := true, sdaOut := true, phase := .stopped, status := .nack, busy := false, shr := 0#8,
    bitcnt := 8#4, rxbit := true, ackf := false, script := s.script.tail, reads := s.reads + 1,
    trace := s.trace ++ es ++ stopTrace s.cfg.tHalf ++ [.rsp .nack], upc := s.upc + es.length + 7 }

theorem byteTrace_length (t : BitVec 16) (v : Byte) : (byteTrace t v).length = 40 := rfl

theorem sendTrace_length (t : BitVec 16) (v : Byte) (l : Level) : (sendTrace t v l).length = 45 := rfl

theorem answer_of_env (s t : State) (h : t.script = s.script) (hr : t.reads = s.reads) (k : Nat) :
    t.answer k = s.answer k := by
  simp [State.answer, h, hr]

theorem run_sendActs_acked (v : Byte) (s : State) (as : List Act) (h : s.answer 0 = .low) :
    run (sendActs v ++ as) s = run as (s.afterSend (sendTrace s.cfg.tHalf v .low)) := by
  rw [sendActs, List.append_assoc, List.append_assoc, run_txbyteActs, run_wackActs, List.singleton_append,
    run_abortIfNack_acked]
  · congr 1
    rw [State.afterSend, State.mk.injEq]
    have hans := answer_of_env s
    simp [hans, h, Level.bit, sendTrace, byteTrace_length, sampleTrace]
  · simp [answer_of_env s, h, Level.bit]

theorem run_sendActs_nacked (v : Byte) (s : State) (as : List Act) (h : s.answer 0 = .high) :
    run (sendActs v ++ as) s = s.afterAbort (sendTrace s.cfg.tHalf v .high) := by
  rw [sendActs, List.append_assoc, List.append_assoc, run_txbyteActs, run_wackActs, List.singleton_append,
    run_abortIfNack_nacked, applyAll_abortActs]
  · rw [State.afterAbort, State.mk.injEq]
    have hans := answer_of_env s
    simp [hans, h, Level.bit, sendTrace, byteTrace_length, sampleTrace]
  · simp [answer_of_env s, h, Level.bit]

/-! ## A data byte of WRITE -/

/-- The events of a data byte of WRITE: the `LD`, then the byte frame (R86). -/
def dataTrace (s : State) (l : Level) : List Event :=
  .ld s.idx (s.txbuf.get (bufferAddress s.idx)) ::
    sendTrace s.cfg.tHalf (s.txbuf.get (bufferAddress s.idx)) l

theorem run_writeByteActs_acked (s : State) (as : List Act) (h : s.answer 0 = .low) :
    run (writeByteActs ++ as) s = run as { s.afterSend (dataTrace s .low) with idx := s.idx + 1#12 } := by
  simp only [writeByteActs, List.cons_append, List.append_assoc, List.nil_append]
  rw [run_cons _ _ _ (by simp), run_sendShrActs, run_wackActs, run_abortIfNack_acked, run_cons _ _ _ (by simp)]
  · congr 1
    rw [State.afterSend, Act.apply, State.mk.injEq]
    simp [Act.apply, answer_of_env s, h, Level.bit, sendTrace, dataTrace, byteTrace_length, sampleTrace]
  · simp [Act.apply, answer_of_env s, h, Level.bit]

theorem run_writeByteActs_nacked (s : State) (as : List Act) (h : s.answer 0 = .high) :
    run (writeByteActs ++ as) s = s.afterAbort (dataTrace s .high) := by
  simp only [writeByteActs, List.cons_append, List.append_assoc, List.nil_append]
  rw [run_cons _ _ _ (by simp), run_sendShrActs, run_wackActs, run_abortIfNack_nacked,
    applyAll_abortActs]
  · rw [State.afterAbort, State.mk.injEq]
    simp [Act.apply, answer_of_env s, h, Level.bit, sendTrace, dataTrace, byteTrace_length, sampleTrace]
  · simp [Act.apply, answer_of_env s, h, Level.bit]

theorem writeLoop_add (j k : Nat) : writeLoop (j + k) = writeLoop j ++ writeLoop k := by
  induction j with
  | zero => simp [writeLoop]
  | succ j ih => rw [Nat.add_right_comm, writeLoop, ih, writeLoop, List.append_assoc]

/-- The registers as a transmitted and acknowledged byte leaves them. -/
structure State.AfterAck (s : State) : Prop where
  scl : s.sclOut = false
  sda : s.sdaOut = true
  shr : s.shr = 0#8
  bitcnt : s.bitcnt = 8#4
  rxbit : s.rxbit = false
  ackf : s.ackf = true

theorem afterSend_AfterAck (s : State) (es : List Event) : (s.afterSend es).AfterAck :=
  ⟨rfl, rfl, rfl, rfl, rfl, rfl⟩

/-- The events of `k` data bytes of WRITE from byte `i` on, all acknowledged. -/
def dataTraces (s : State) (i k : Nat) : List Event :=
  (List.range k).flatMap fun j =>
    .ld (BitVec.ofNat 12 (i + j)) (s.txByte (i + j)) :: sendTrace s.cfg.tHalf (s.txByte (i + j)) .low

theorem dataTraces_succ (s : State) (i k : Nat) :
    dataTraces s i (k + 1) =
      .ld (BitVec.ofNat 12 i) (s.txByte i) :: sendTrace s.cfg.tHalf (s.txByte i) .low ++ dataTraces s (i + 1) k := by
  simp [dataTraces, List.range_succ_eq_map, List.flatMap_map, Nat.add_comm, Nat.add_left_comm]

theorem dataTraces_length (s : State) (i k : Nat) : (dataTraces s i k).length = 46 * k := by
  induction k generalizing i with
  | zero => rfl
  | succ k ih => rw [dataTraces_succ]; simp [ih, sendTrace_length]; omega

/-- WRITE's loop while every byte is acknowledged (R86 step 4). -/
theorem run_writeLoop (k i : Nat) (s : State) (as : List Act) (hs : s.AfterAck) (hi : s.idx = BitVec.ofNat 12 i)
    (hk : i + k < 4096) (h : ∀ j < k, s.answer j = .low) :
    run (writeLoop k ++ as) s = run as { s with
      idx := BitVec.ofNat 12 (i + k), script := s.script.drop k, reads := s.reads + k,
      trace := s.trace ++ dataTraces s i k, upc := s.upc + 46 * k } := by
  induction k generalizing s i with
  | zero => simp [writeLoop, dataTraces, ← hi]
  | succ k ih =>
    obtain ⟨h1, h2, h3, h4, h5, h6⟩ := hs
    have haddr : bufferAddress s.idx = i := by
      rw [hi, bufferAddress, BitVec.toNat_ofNat]; omega
    rw [writeLoop, List.append_assoc, run_writeByteActs_acked _ _ (h 0 (by omega)),
      ih (i + 1) _ ⟨rfl, rfl, rfl, rfl, rfl, rfl⟩ (by simp [hi, BitVec.ofNat_add]) (by omega)
        (fun j hj => by rw [answer_after s _ 1 j (by simp [State.afterSend]) rfl]; exact h _ (by omega))]
    congr 1
    have hd : ∀ t : State, t.txbuf = s.txbuf → t.cfg = s.cfg → dataTraces t (i + 1) k = dataTraces s (i + 1) k := by
      intro t e1 e2; simp [dataTraces, State.txByte, e1, e2]
    have hi' : i + 1 + k = i + (k + 1) := by omega
    have hdata : dataTrace s .low =
        .ld (BitVec.ofNat 12 i) (s.txByte i) :: sendTrace s.cfg.tHalf (s.txByte i) .low := by
      rw [dataTrace, haddr, hi, State.txByte]
    apply State.ext <;>
      simp [State.afterSend, h1, h2, h3, h4, h5, h6, hi', hd, dataTraces_succ, hdata, sendTrace_length] <;>
      omega

/-- WRITE's loop when byte `i + j` is the first that is not acknowledged (R86, R104). -/
theorem run_writeLoop_nacked (k j i : Nat) (s : State) (as : List Act) (hs : s.AfterAck)
    (hi : s.idx = BitVec.ofNat 12 i) (hj : j < k) (hk : i + k < 4096) (h : ∀ m < j, s.answer m = .low)
    (hn : s.answer j = .high) :
    run (writeLoop k ++ as) s = ({ s with
      idx := BitVec.ofNat 12 (i + j), script := s.script.drop j, reads := s.reads + j,
      trace := s.trace ++ dataTraces s i j, upc := s.upc + 46 * j } : State).afterAbort
        (.ld (BitVec.ofNat 12 (i + j)) (s.txByte (i + j)) :: sendTrace s.cfg.tHalf (s.txByte (i + j)) .high) := by
  have hsplit : writeLoop k = writeLoop j ++ (writeByteActs ++ writeLoop (k - j - 1)) := by
    have : k = j + (k - j - 1 + 1) := by omega
    rw [this, writeLoop_add, Nat.add_sub_cancel_left, Nat.add_sub_cancel]; rfl
  have haddr : bufferAddress (BitVec.ofNat 12 (i + j)) = i + j := by
    rw [bufferAddress, BitVec.toNat_ofNat]; omega
  rw [hsplit, List.append_assoc, List.append_assoc, run_writeLoop j i s _ hs hi (by omega) h,
    run_writeByteActs_nacked _ _ (by rw [answer_after s _ j 0 rfl rfl]; exact hn)]
  simp [dataTrace, haddr, State.txByte]

/-! ## A data byte of READ -/

/-- The events of `k` data bytes of an `n`-byte READ from byte `i` on, the environment's answers being those of `s`. -/
def recvTraces (s : State) (n i k : Nat) : List Event :=
  (List.range k).flatMap fun j =>
    receiveTrace s.cfg.tHalf (s.answers (8 * j) 8) (decide (i + j + 1 < n))
      ++ [.st (BitVec.ofNat 12 (i + j)) (s.byteRead (8 * j))]

theorem answers_after (s t : State) (m k n : Nat) (h : t.script = s.script.drop m) (hr : t.reads = s.reads + m) :
    t.answers k n = s.answers (m + k) n := by
  simp [State.answers, answer_after s t m _ h hr, Nat.add_assoc]

theorem byteRead_after (s t : State) (m k : Nat) (h : t.script = s.script.drop m) (hr : t.reads = s.reads + m) :
    t.byteRead k = s.byteRead (m + k) := by
  simp [State.byteRead, answers_after s t m k 8 h hr]

theorem recvTraces_succ (s t : State) (n i k : Nat) (h : t.script = s.script.drop 8) (hr : t.reads = s.reads + 8)
    (hc : t.cfg = s.cfg) :
    recvTraces s n i (k + 1) =
      receiveTrace s.cfg.tHalf (s.answers 0 8) (decide (i + 1 < n)) ++ [.st (BitVec.ofNat 12 i) (s.byteRead 0)]
        ++ recvTraces t n (i + 1) k := by
  simp [recvTraces, List.range_succ_eq_map, List.flatMap_map, hc]
  congr 2
  funext j
  rw [answers_after s t 8 _ 8 h hr, byteRead_after s t 8 _ h hr, show 8 * (j + 1) = 8 + 8 * j by omega,
    show i + (j + 1) = i + 1 + j by omega]

theorem storeAll_shift (m : Memory) (v : Nat → Byte) (i k : Nat) :
    (List.range (k + 1)).foldl (fun m j => m.set (i + j) (v j)) m =
      (List.range k).foldl (fun m j => m.set (i + 1 + j) (v (j + 1))) (m.set i (v 0)) := by
  simp [List.range_succ_eq_map, List.foldl_map, Nat.add_comm, Nat.add_left_comm]

/-- The state after READ's turn for byte `i` of `n` (R89 step 6). -/
def State.afterReceive (s : State) (n i : Nat) : State :=
  { s with
    sclOut := false, sdaOut := !decide (i + 1 < n), phase := if i = 0 then .reading else s.phase,
    shr := s.byteRead 0, bitcnt := 8#4, rxbit := (s.answer 7).bit, idx := s.idx + 1#12,
    script := s.script.drop 8, reads := s.reads + 8,
    rxbuf := s.rxbuf.set (bufferAddress s.idx) (s.byteRead 0),
    trace := s.trace ++ receiveTrace s.cfg.tHalf (s.answers 0 8) (decide (i + 1 < n))
      ++ [.st s.idx (s.byteRead 0)],
    upc := s.upc + 47 }

theorem run_readByteActs (n i : Nat) (s : State) (as : List Act) (hc : s.sclOut = false) :
    run (readByteActs n i ++ as) s = run as (s.afterReceive n i) := by
  have hpre : ∀ l : List Act, run ((if i = 0 then [Act.setPhase .reading] else []) ++ l) s =
      run l { s with phase := if i = 0 then .reading else s.phase } := by
    intro l
    by_cases h0 : i = 0
    · simp [h0, run_cons, Act.apply]
    · simp [h0]
  rw [readByteActs, List.append_assoc, List.append_assoc, hpre, run_rxbyteActs _ _ _ (by exact hc), List.cons_append,
    List.singleton_append, run_cons _ _ _ (by simp), run_cons _ _ _ (by simp)]
  congr 1

/-- READ's loop (R89 step 6): it cannot fail. -/
theorem run_readLoop (n k i : Nat) (s : State) (as : List Act) (hc : s.sclOut = false)
    (hi : s.idx = BitVec.ofNat 12 i) (hk : i + k < 4096) :
    run (readLoop n i k ++ as) s = run as { s with
      sdaOut := if k = 0 then s.sdaOut else !decide (i + k < n),
      phase := if i = 0 ∧ 0 < k then .reading else s.phase,
      shr := if k = 0 then s.shr else s.byteRead (8 * (k - 1)),
      bitcnt := if k = 0 then s.bitcnt else 8#4,
      rxbit := if k = 0 then s.rxbit else (s.answer (8 * k - 1)).bit,
      idx := BitVec.ofNat 12 (i + k), script := s.script.drop (8 * k), reads := s.reads + 8 * k,
      rxbuf := (List.range k).foldl (fun m j => m.set (i + j) (s.byteRead (8 * j))) s.rxbuf,
      trace := s.trace ++ recvTraces s n i k, upc := s.upc + 47 * k } := by
  induction k generalizing s i with
  | zero => simp [readLoop, recvTraces, ← hi]
  | succ k ih =>
    have haddr : bufferAddress s.idx = i := by
      rw [hi, bufferAddress, BitVec.toNat_ofNat]; omega
    rw [readLoop, List.append_assoc, run_readByteActs _ _ _ _ hc,
      ih (i + 1) _ rfl (by simp [State.afterReceive, hi, BitVec.ofNat_add]) (by omega)]
    congr 1
    have hb : ∀ j, (s.afterReceive n i).byteRead j = s.byteRead (8 + j) :=
      fun j => byteRead_after s _ 8 j rfl rfl
    have ha : ∀ j, (s.afterReceive n i).answer j = s.answer (8 + j) :=
      fun j => answer_after s _ 8 j rfl rfl
    have hi' : i + 1 + k = i + (k + 1) := by omega
    have htr : (s.afterReceive n i).trace ++ recvTraces (s.afterReceive n i) n (i + 1) k =
        s.trace ++ recvTraces s n i (k + 1) := by
      rw [recvTraces_succ s (s.afterReceive n i) n i k rfl rfl rfl]
      simp [State.afterReceive, hi]
    have hrx : (List.range k).foldl (fun m j => m.set (i + 1 + j) ((s.afterReceive n i).byteRead (8 * j)))
        (s.afterReceive n i).rxbuf =
        (List.range (k + 1)).foldl (fun m j => m.set (i + j) (s.byteRead (8 * j))) s.rxbuf := by
      rw [storeAll_shift s.rxbuf (fun j => s.byteRead (8 * j)) i k]
      simp only [hb]
      simp [State.afterReceive, haddr, Nat.mul_add, Nat.add_comm]
    apply State.ext
    case rxbuf => exact hrx
    case trace => exact htr
    all_goals simp only [hb, ha, hi']
    all_goals cases k <;> simp [State.afterReceive, hc, Nat.mul_add, Nat.add_assoc]
    all_goals first | omega | (congr 1; omega) | (congr 2; omega)

end Sys2Proof.Machine
end

