-- ==== Sys2Proof/Laws/Pace.lean ====
section
/-! SUPPORT. The event pace against the whole run: an event leaves the end of the run as it was, and so many ticks
as a list has events run the list (D21, R13). -/

namespace Sys2Proof.Machine

theorem apply_todo (a : Act) (s : State) (x : List Act) :
    a.apply { s with todo := x } = { a.apply s with todo := x } := by
  cases a
  case cfg p => cases p <;> rfl
  case write p l => cases p <;> rfl
  all_goals rfl

theorem applyAll_todo (l : List Act) (s : State) (x : List Act) :
    applyAll l { s with todo := x } = { applyAll l s with todo := x } := by
  induction l generalizing s with
  | nil => rfl
  | cons a l ih => rw [applyAll, applyAll, apply_todo, ih]

theorem run_todo (l : List Act) (s : State) (x : List Act) :
    run l { s with todo := x } = { run l s with todo := x } := by
  induction l generalizing s with
  | nil => rfl
  | cons a l ih =>
    rw [run, run]
    split
    · rw [applyAll_todo]
    · rw [apply_todo, ih]

/-- Settling does not read what was left to do before. -/
theorem settle_todo (l : List Act) (s : State) (x : List Act) : settle l { s with todo := x } = settle l s := by
  induction l generalizing s with
  | nil => rfl
  | cons a l ih =>
    rw [settle, settle]
    split
    · rfl
    · split
      · rfl
      · rw [apply_todo, ih]

/-- Settling leaves the end of the run as it was. -/
theorem finish_settle (l : List Act) (s : State) : (settle l s).finish = run l { s with todo := [] } := by
  induction l generalizing s with
  | nil => rfl
  | cons a l ih =>
    rw [settle]
    split
    · rfl
    · split
      · rename_i h
        rw [run, if_pos h, State.finish, run_eq_applyAll _ _ straight_abortActs]
      · rename_i h
        rw [ih, run, if_neg h]
        exact congrArg (run l) (apply_todo a s []).symm

/-- An event of the running command leaves the end of its run as it was (R13). -/
theorem finish_tick (s : State) : s.tick.finish = s.finish := by
  cases h : s.todo with
  | nil => simp [State.tick, h]
  | cons a as =>
    by_cases he : a.isEvent = true
    · have ha : a ≠ .abortIfNack := by rintro rfl; simp [Act.isEvent] at he
      simp only [State.tick, h, he, if_true]
      rw [finish_settle, State.finish, h, run_cons _ _ _ ha]
      exact congrArg (run as) (apply_todo a s []).symm
    · simp only [State.tick, h, he]
      exact (finish_settle _ _).trans (by rw [State.finish, h])

/-- So many ticks as a list has events run it, the register writes after its last event done as well. -/
theorem tick_iterate (l r : List Act) (s : State) (h : Straight l) :
    State.tick^[l.countP Act.isEvent] (settle (l ++ r) s) = settle r (run l s) := by
  induction l generalizing s with
  | nil => rfl
  | cons a l ih =>
    have ha : a ≠ .abortIfNack := h a (by simp)
    have hl : Straight l := fun b hb => h b (by simp [hb])
    by_cases he : a.isEvent = true
    · have htick : (settle (a :: l ++ r) s).tick = settle (l ++ r) (a.apply s) := by
        simp only [List.cons_append, settle, he, if_true, State.tick]
        rw [apply_todo, settle_todo]
      rw [List.countP_cons_of_pos he, Function.iterate_succ_apply, htick, ih _ hl, run_cons _ _ _ ha]
    · rw [List.countP_cons_of_neg he, run_cons _ _ _ ha, ← ih _ hl, List.cons_append, settle]
      simp [he, ha]

end Sys2Proof.Machine
end

