-- ==== Sys2Proof/Laws/Commands.lean ====
section
/-! SUPPORT. A command as the run of its body, and what the address phase of WRITE and READ does. -/

namespace Sys2Proof.Machine

/-- The state in which a command's body begins (R83). -/
def State.begun (s : State) (op : BitVec 4) (a : Addr7) (r : Byte) (n : Index) : State :=
  { s with busy := true, upc := 0, trace := [], todo := [], op := op, addr7 := a, reg8 := r, len := n }

theorem exec_write_run (a : Addr7) (r : Byte) (n : Nat) (s : State) (hi : s.inited = true) (hn : n < 4096) :
    exec (.write a r n) s = .next (run (writeBody a r n) (s.begun 0x2#4 a r (BitVec.ofNat 12 n))) := by
  simp only [exec, execWrite, startWrite, State.start, finish_settle]
  simp [bodyOrNoInit, State.accept, State.latch, State.begun, hi, Nat.mod_eq_of_lt hn]

theorem exec_read_run (a : Addr7) (r : Byte) (n : Nat) (s : State) (hi : s.inited = true) (hn : n < 4096) :
    exec (.read a r n) s = .next (run (readBody a r n) (s.begun 0x3#4 a r (BitVec.ofNat 12 n))) := by
  simp only [exec, execRead, startRead, State.start, finish_settle]
  simp [bodyOrNoInit, State.accept, State.latch, State.begun, hi, Nat.mod_eq_of_lt hn]

theorem exec_probe_run (a : Addr7) (s : State) (hi : s.inited = true) :
    exec (.probe a) s = .next (run (probeBody a) (s.begun 0x4#4 a 0#8 0#12)) := by
  simp only [exec, execProbe, startProbe, State.start, finish_settle]
  simp [bodyOrNoInit, State.accept, State.latch, State.begun, hi]

/-- The address phase, both bytes acknowledged (R86, R89 steps 1 to 3). -/
theorem run_addressActs_acked (a : Addr7) (r : Byte) (s : State) (as : List Act) (h0 : s.answer 0 = .low)
    (h1 : s.answer 1 = .low) :
    run (addressActs a r ++ as) s = run as { s with
      sclOut := false, sdaOut := true, phase := .writing, shr := 0#8, bitcnt := 8#4, rxbit := false, ackf := true,
      script := s.script.drop 2, reads := s.reads + 2, upc := s.upc + 96,
      trace := s.trace ++ startTrace s.cfg.tHalf ++ sendTrace s.cfg.tHalf (addressByte a false) .low
        ++ sendTrace s.cfg.tHalf r .low } := by
  simp only [addressActs, List.append_assoc]
  rw [run_startActs, run_sendActs_acked _ _ _
      (by refine Eq.trans (answer_of_env s _ ?_ ?_ _) h0 <;> rfl), List.cons_append,
    List.singleton_append, run_cons _ _ _ (by simp), run_cons _ _ _ (by simp), run_sendActs_acked _ _ _
      (by refine Eq.trans (answer_after s _ 1 0 ?_ ?_) h1 <;> simp [Act.apply, State.afterSend])]
  congr 1
  rw [State.mk.injEq]
  simp [State.afterSend, Act.apply, sendTrace_length, ← List.drop_one]

/-- The address phase whose address byte is not acknowledged. -/
theorem run_addressActs_nacked_address (a : Addr7) (r : Byte) (s : State) (as : List Act) (h0 : s.answer 0 = .high) :
    run (addressActs a r ++ as) s = { s with
      sclOut := true, sdaOut := true, phase := .stopped, status := .nack, busy := false, shr := 0#8, bitcnt := 8#4,
      rxbit := true, ackf := false, script := s.script.drop 1, reads := s.reads + 1, upc := s.upc + 58,
      trace := s.trace ++ startTrace s.cfg.tHalf ++ sendTrace s.cfg.tHalf (addressByte a false) .high
        ++ stopTrace s.cfg.tHalf ++ [.rsp .nack] } := by
  simp only [addressActs, List.append_assoc]
  rw [run_startActs, run_sendActs_nacked _ _ _ (by refine Eq.trans (answer_of_env s _ ?_ ?_ _) h0 <;> rfl)]
  simp [State.afterAbort, sendTrace_length]

/-- The address phase whose register byte is not acknowledged. -/
theorem run_addressActs_nacked_register (a : Addr7) (r : Byte) (s : State) (as : List Act) (h0 : s.answer 0 = .low)
    (h1 : s.answer 1 = .high) :
    run (addressActs a r ++ as) s = { s with
      sclOut := true, sdaOut := true, phase := .stopped, status := .nack, busy := false, shr := 0#8, bitcnt := 8#4,
      rxbit := true, ackf := false, script := s.script.drop 2, reads := s.reads + 2, upc := s.upc + 103,
      trace := s.trace ++ startTrace s.cfg.tHalf ++ sendTrace s.cfg.tHalf (addressByte a false) .low
        ++ sendTrace s.cfg.tHalf r .high ++ stopTrace s.cfg.tHalf ++ [.rsp .nack] } := by
  simp only [addressActs, List.append_assoc]
  rw [run_startActs, run_sendActs_acked _ _ _
      (by refine Eq.trans (answer_of_env s _ ?_ ?_ _) h0 <;> rfl), List.cons_append,
    List.singleton_append, run_cons _ _ _ (by simp), run_cons _ _ _ (by simp), run_sendActs_nacked _ _ _
      (by refine Eq.trans (answer_after s _ 1 0 ?_ ?_) h1 <;> simp [Act.apply, State.afterSend])]
  simp [State.afterSend, State.afterAbort, Act.apply, sendTrace_length, ← List.drop_one]

/-- Bytes sent most significant bit first are assembled most significant bit first (R34(a), R76, R77). -/
theorem byteOfBits_msbFirst : ∀ v : Byte, byteOfBits (msbFirst v) = v := by decide +kernel

end Sys2Proof.Machine
end

