-- ==== Sys2Proof/Laws/PerInstr.lean ====
section
/-! SUPPORT. Statements made of every instruction: each constructor's word selects its own row of the opcode map
(R56, R59). -/

namespace Sys2Proof.Laws

/-- The CMD32 word of a word of either format. -/
def commandWord? : PortWord → Option (BitVec 32)
  | .cmd w => some w
  | .uop _ => none

/-- The UOP12 word of a word of either format. -/
def uopWord? : PortWord → Option (BitVec 12)
  | .cmd _ => none
  | .uop w => some w

/-- The word of a command selects this row of R56. -/
def SelectsCommandRow (row : Row 32) (i : Instr) : Prop :=
  ∃ w, commandWord? (encode i) = some w ∧ row.hit w = true

/-- The word of a micro-operation selects this row of R59. -/
def SelectsUopRow (row : Row 12) (i : Instr) : Prop :=
  ∃ w, uopWord? (encode i) = some w ∧ row.hit w = true

/-- The word of an instruction selects the row of its mnemonic. -/
def SelectsItsRow.Statement : Instr → Prop
  | .init => SelectsCommandRow initRow .init
  | .write a r n => SelectsCommandRow writeRow (.write a r n)
  | .read a r n => SelectsCommandRow readRow (.read a r n)
  | .probe a => SelectsCommandRow probeRow (.probe a)
  | .start => SelectsUopRow startRow .start
  | .stop => SelectsUopRow stopRow .stop
  | .txbit b => SelectsUopRow txbitRow (.txbit b)
  | .rxbit => SelectsUopRow rxbitRow .rxbit
  | .txbyte v => SelectsUopRow txbyteRow (.txbyte v)
  | .rxbyte a => SelectsUopRow rxbyteRow (.rxbyte a)
  | .wack => SelectsUopRow wackRow .wack

/-- The fields WRITE's and READ's rows leave free do not touch the bits the rows fix. -/
theorem cmdWord_and_opMask (op : BitVec 4) (a : Addr7) (r : Byte) (n : Index) :
    cmdWord op a r n &&& 0xF8000000#32 = cmdWord op 0#7 0#8 0#12 := by
  apply BitVec.eq_of_getLsbD_eq
  intro i hi
  simp only [cmdWord, BitVec.getLsbD_and, BitVec.getLsbD_append]
  interval_cases i <;> simp

/-- PROBE's address does not touch the bits its row fixes. -/
theorem cmdWord_and_probeMask (op : BitVec 4) (a : Addr7) :
    cmdWord op a 0#8 0#12 &&& 0xF80FFFFF#32 = cmdWord op 0#7 0#8 0#12 := by
  apply BitVec.eq_of_getLsbD_eq
  intro i hi
  simp only [cmdWord, BitVec.getLsbD_and, BitVec.getLsbD_append]
  interval_cases i <;> simp

/-- TXBYTE's operand does not touch the bits its row fixes. -/
theorem uopWord_and_codeMask (code : BitVec 4) (v : Byte) :
    uopWord code v &&& 0xF00#12 = uopWord code 0#8 := by
  apply BitVec.eq_of_getLsbD_eq
  intro i hi
  simp only [uopWord, BitVec.getLsbD_and, BitVec.getLsbD_append]
  interval_cases i <;> simp

theorem SelectsItsRow.init : SelectsItsRow.Statement .init := ⟨_, rfl, by decide⟩

theorem SelectsItsRow.write (a : Addr7) (r : Byte) (n : Nat) : SelectsItsRow.Statement (.write a r n) :=
  ⟨_, rfl, by simp only [Row.hit, writeRow, cmdWord_and_opMask]; decide⟩

theorem SelectsItsRow.read (a : Addr7) (r : Byte) (n : Nat) : SelectsItsRow.Statement (.read a r n) :=
  ⟨_, rfl, by simp only [Row.hit, readRow, cmdWord_and_opMask]; decide⟩

theorem SelectsItsRow.probe (a : Addr7) : SelectsItsRow.Statement (.probe a) :=
  ⟨_, rfl, by simp only [Row.hit, probeRow, cmdWord_and_probeMask]; decide⟩

theorem SelectsItsRow.start : SelectsItsRow.Statement .start := ⟨_, rfl, by decide⟩

theorem SelectsItsRow.stop : SelectsItsRow.Statement .stop := ⟨_, rfl, by decide⟩

theorem SelectsItsRow.txbit (b : Bool) : SelectsItsRow.Statement (.txbit b) :=
  ⟨_, rfl, by revert b; decide⟩

theorem SelectsItsRow.rxbit : SelectsItsRow.Statement .rxbit := ⟨_, rfl, by decide⟩

theorem SelectsItsRow.txbyte (v : Byte) : SelectsItsRow.Statement (.txbyte v) :=
  ⟨_, rfl, by simp only [Row.hit, txbyteRow, uopWord_and_codeMask]; decide⟩

theorem SelectsItsRow.rxbyte (a : Bool) : SelectsItsRow.Statement (.rxbyte a) :=
  ⟨_, rfl, by revert a; decide⟩

theorem SelectsItsRow.wack : SelectsItsRow.Statement .wack := ⟨_, rfl, by decide⟩

end Sys2Proof.Laws
end

