-- ==== Sys2Proof/Laws/Sequencer.lean ====
section
/-! SUPPORT. What one action, settling, and the run of a position can do to the state: which fields they leave alone,
that they keep the buffers canonical and `UPC` the length of the trace, and that a position which ends in a response
ends with `BUSY` = 0. -/

namespace Sys2Proof.Machine

/-! ## What no action touches -/

/-- The fields no action writes: the latches of the command, the configuration, and what the host has in hand. -/
def SameOutside (s t : State) : Prop :=
  t.inbox = s.inbox ∧ t.op = s.op ∧ t.addr7 = s.addr7 ∧ t.reg8 = s.reg8 ∧ t.len = s.len ∧ t.cfg = s.cfg ∧
    t.rstFor = s.rstFor ∧ t.pace = s.pace

theorem SameOutside.refl (s : State) : SameOutside s s := ⟨rfl, rfl, rfl, rfl, rfl, rfl, rfl, rfl⟩

theorem SameOutside.trans {s t u : State} (h : SameOutside s t) (k : SameOutside t u) : SameOutside s u := by
  obtain ⟨h1, h2, h3, h4, h5, h6, h7, h8⟩ := h
  obtain ⟨k1, k2, k3, k4, k5, k6, k7, k8⟩ := k
  exact ⟨k1.trans h1, k2.trans h2, k3.trans h3, k4.trans h4, k5.trans h5, k6.trans h6, k7.trans h7, k8.trans h8⟩

theorem apply_sameOutside (a : Act) (s : State) : SameOutside s (a.apply s) := by
  cases a
  case cfg p => cases p <;> exact .refl s
  case write p l => cases p <;> exact .refl s
  all_goals exact .refl s

theorem applyAll_sameOutside (l : List Act) (s : State) : SameOutside s (applyAll l s) := by
  induction l generalizing s with
  | nil => exact .refl s
  | cons a l ih => exact (apply_sameOutside a s).trans (ih _)

theorem run_sameOutside (l : List Act) (s : State) : SameOutside s (run l s) := by
  induction l generalizing s with
  | nil => exact .refl s
  | cons a l ih =>
    rw [run]
    split
    · exact applyAll_sameOutside _ _
    · exact (apply_sameOutside a s).trans (ih _)

theorem settle_sameOutside (l : List Act) (s : State) : SameOutside s (settle l s) := by
  induction l generalizing s with
  | nil => exact .refl s
  | cons a l ih =>
    rw [settle]
    split
    · exact .refl s
    · split
      · exact .refl s
      · exact (apply_sameOutside a s).trans (ih _)

theorem advance_sameOutside (s : State) : SameOutside s (advance s) := by
  unfold advance
  split
  · exact run_sameOutside s.todo { s with todo := [] }
  · unfold State.tick
    split
    · exact .refl s
    · split
      · exact (apply_sameOutside _ s).trans (settle_sameOutside _ _)
      · exact settle_sameOutside _ _

/-! ## What every action keeps -/

/-- Canonical buffers, and `UPC` the length of the trace. -/
structure Recorded (s : State) : Prop where
  txbuf : s.txbuf.wf
  rxbuf : s.rxbuf.wf
  upc : s.upc = s.trace.length

theorem apply_recorded (a : Act) (s : State) (h : Recorded s) : Recorded (a.apply s) := by
  obtain ⟨h1, h2, h3⟩ := h
  cases a
  case cfg p => cases p <;> exact ⟨h1, h2, by simp [Act.apply, State.emit, State.configurePin, h3]⟩
  case write p l => cases p <;> exact ⟨h1, h2, by simp [Act.apply, State.emit, State.setLatch, h3]⟩
  case store => exact ⟨h1, memory_store_wf _ h2 _ _, by simp [Act.apply, State.emit, State.storeByte, h3]⟩
  all_goals
    exact ⟨h1, h2, by
      simp [Act.apply, State.emit, State.setLatch, State.sampleSda, State.loadByte, State.respond, h3]⟩

theorem applyAll_recorded (l : List Act) (s : State) (h : Recorded s) : Recorded (applyAll l s) := by
  induction l generalizing s with
  | nil => exact h
  | cons a l ih => exact ih _ (apply_recorded a s h)

theorem run_recorded (l : List Act) (s : State) (h : Recorded s) : Recorded (run l s) := by
  induction l generalizing s with
  | nil => exact h
  | cons a l ih =>
    rw [run]
    split
    · exact applyAll_recorded _ _ h
    · exact ih _ (apply_recorded a s h)

/-! ## `BUSY` and the events -/

theorem isEvent_of_isResponse (a : Act) (h : a.isResponse = true) : a.isEvent = true := by
  cases a <;> simp [Act.isResponse] at h <;> rfl

/-- Only a response writes `BUSY`. -/
theorem apply_busy (a : Act) (s : State) (h : a.isResponse = false) : (a.apply s).busy = s.busy := by
  cases a
  case cfg p => cases p <;> rfl
  case write p l => cases p <;> rfl
  all_goals first | rfl | simp [Act.isResponse] at h

theorem apply_response_busy (a : Act) (s : State) (h : a.isResponse = true) : (a.apply s).busy = false := by
  cases a <;> simp [Act.isResponse] at h <;> rfl

/-- An event adds one entry to the trace and one to `UPC` (R13). -/
theorem apply_event (a : Act) (s : State) (h : a.isEvent = true) :
    ∃ e, (a.apply s).trace = s.trace ++ [e] ∧ (a.apply s).upc = s.upc + 1 := by
  cases a
  case cfg p => cases p <;> exact ⟨_, rfl, rfl⟩
  case write p l => cases p <;> exact ⟨_, rfl, rfl⟩
  all_goals first | exact ⟨_, rfl, rfl⟩ | simp [Act.isEvent] at h

/-- What a register write between two events leaves alone. -/
def SameEmitted (s t : State) : Prop :=
  t.busy = s.busy ∧ t.trace = s.trace ∧ t.upc = s.upc ∧ t.txbuf = s.txbuf ∧ t.rxbuf = s.rxbuf

theorem apply_sameEmitted (a : Act) (s : State) (h : a.isEvent = false) : SameEmitted s (a.apply s) := by
  cases a <;> simp [Act.isEvent] at h <;> exact ⟨rfl, rfl, rfl, rfl, rfl⟩

theorem settle_sameEmitted (l : List Act) (s : State) : SameEmitted s (settle l s) := by
  induction l generalizing s with
  | nil => exact ⟨rfl, rfl, rfl, rfl, rfl⟩
  | cons a l ih =>
    rw [settle]
    split
    · exact ⟨rfl, rfl, rfl, rfl, rfl⟩
    · split
      · exact ⟨rfl, rfl, rfl, rfl, rfl⟩
      · rename_i ha _
        obtain ⟨a1, a2, a3, a4, a5⟩ := apply_sameEmitted a s (by simpa using ha)
        obtain ⟨b1, b2, b3, b4, b5⟩ := ih (a.apply s)
        exact ⟨b1.trans a1, b2.trans a2, b3.trans a3, b4.trans a4, b5.trans a5⟩

/-! ## Positions that end in a response -/

theorem endsInResponse_append (l r : List Act) (h : ∀ a ∈ l, a.isResponse = false) :
    endsInResponse (l ++ r) = endsInResponse r := by
  induction l with
  | nil => rfl
  | cons a l ih =>
    simp only [List.cons_append, endsInResponse, h a (by simp)]
    exact ih fun b hb => h b (by simp [hb])

/-- A settled position stands at an event and still ends in a response. -/
theorem settle_endsInResponse (l : List Act) (s : State) (h : endsInResponse l = true) :
    (∃ a as, (settle l s).todo = a :: as ∧ a.isEvent = true) ∧ endsInResponse (settle l s).todo = true := by
  induction l generalizing s with
  | nil => simp [endsInResponse] at h
  | cons a l ih =>
    rw [settle]
    split
    · exact ⟨⟨a, l, rfl, ‹_›⟩, h⟩
    · split
      · exact ⟨⟨_, _, rfl, rfl⟩, rfl⟩
      · have hr : a.isResponse = false := by
          cases hr : a.isResponse
          · rfl
          · exact absurd (isEvent_of_isResponse a hr) ‹_›
        simp [endsInResponse, hr] at h
        exact ih _ h

/-- The run of a position that ends in a response leaves `BUSY` = 0 (R83). -/
theorem run_endsInResponse (l : List Act) (s : State) (h : endsInResponse l = true) : (run l s).busy = false := by
  induction l generalizing s with
  | nil => simp [endsInResponse] at h
  | cons a l ih =>
    rw [run]
    split
    · rw [applyAll_abortActs]
    · cases hr : a.isResponse
      · simp [endsInResponse, hr] at h
        exact ih _ h
      · simp [endsInResponse, hr] at h
        subst h
        exact apply_response_busy a s hr

theorem noResponse_sendActs (v : Byte) : ∀ a ∈ sendActs v, a.isResponse = false := by
  intro a ha
  simp [sendActs, txbyteActs, sendShrActs, sendBitActs, wackActs, rxbitActs, List.replicate] at ha
  repeat' (rcases ha with rfl | ha; rfl)

theorem noResponse_startActs : ∀ a ∈ startActs, a.isResponse = false := by decide

theorem noResponse_stopActs : ∀ a ∈ stopActs, a.isResponse = false := by decide

theorem noResponse_addressActs (a : Addr7) (r : Byte) : ∀ x ∈ addressActs a r, x.isResponse = false := by
  intro x hx
  simp only [addressActs, List.mem_append] at hx
  rcases hx with ((hx | hx) | hx) | hx
  · exact noResponse_startActs x hx
  · exact noResponse_sendActs _ x hx
  · simp at hx
    rcases hx with rfl | rfl <;> rfl
  · exact noResponse_sendActs _ x hx

theorem noResponse_writeLoop (n : Nat) : ∀ x ∈ writeLoop n, x.isResponse = false := by
  induction n with
  | zero => simp [writeLoop]
  | succ n ih =>
    intro x hx
    simp only [writeLoop, List.mem_append] at hx
    rcases hx with hx | hx
    · revert x; decide
    · exact ih x hx

theorem noResponse_readLoop (n k i : Nat) : ∀ x ∈ readLoop n i k, x.isResponse = false := by
  induction k generalizing i with
  | zero => simp [readLoop]
  | succ k ih =>
    intro x hx
    simp only [readLoop, List.mem_append] at hx
    rcases hx with hx | hx
    · simp only [readByteActs] at hx
      generalize ackOperand i n = b at hx
      by_cases h0 : i = 0
      · simp only [h0, if_true] at hx
        revert x; cases b <;> decide
      · simp only [h0, if_false] at hx
        revert x; cases b <;> decide
    · exact ih _ x hx

theorem endsInResponse_writeBody (a : Addr7) (r : Byte) (n : Nat) : endsInResponse (writeBody a r n) = true := by
  simp only [writeBody, List.append_assoc]
  rw [endsInResponse_append _ _ (noResponse_addressActs a r), endsInResponse_append _ _ (by simp [Act.isResponse]),
    endsInResponse_append _ _ (noResponse_writeLoop n), endsInResponse_append _ _ noResponse_stopActs]
  rfl

theorem endsInResponse_readBody (a : Addr7) (r : Byte) (n : Nat) : endsInResponse (readBody a r n) = true := by
  simp only [readBody, List.append_assoc]
  rw [endsInResponse_append _ _ (noResponse_addressActs a r), endsInResponse_append _ _ noResponse_startActs,
    endsInResponse_append _ _ (noResponse_sendActs _), endsInResponse_append _ _ (by simp [Act.isResponse]),
    endsInResponse_append _ _ (noResponse_readLoop n n 0), endsInResponse_append _ _ noResponse_stopActs]
  rfl

theorem endsInResponse_probeBody (a : Addr7) : endsInResponse (probeBody a) = true := by
  have h : ∀ x ∈ txbyteActs (addressByte a false), x.isResponse = false := fun x hx =>
    noResponse_sendActs (addressByte a false) x (by simp [sendActs, hx])
  simp only [probeBody, List.append_assoc]
  rw [endsInResponse_append _ _ noResponse_startActs, endsInResponse_append _ _ h]
  decide

theorem endsInResponse_bodyOrNoInit (s : State) (body : List Act) (h : endsInResponse body = true) :
    endsInResponse (bodyOrNoInit s body) = true := by
  unfold bodyOrNoInit
  split
  · exact h
  · rfl

end Sys2Proof.Machine
end

