-- ==== Sys2Proof/Laws/Step.lean ====
section
/-! SUPPORT. What a step does, case by case, and how a run of steps unfolds. -/

namespace Sys2Proof.Machine

/-- A step that takes a word. -/
theorem step_of_taking (s : State) (w : PortWord) (rest : List PortWord) (h : Taking s w rest) :
    step s = takeWord w { s with inbox := rest } := by
  obtain ⟨h1, h2, h3, h4⟩ := h
  simp [step, h1, stepAdmitted, h2, h3, stepReady, h4]

/-- A step of a running command. -/
theorem step_of_busy (s : State) (hc : s.cfg.ok = true) (hr : s.rstFor = 0) (hb : s.busy = true) (a : Act)
    (as : List Act) (h : s.todo = a :: as) : step s = .next (advance s) := by
  simp [step, hc, stepAdmitted, hr, hb, stepBusy, h]

/-- One event of a position that stands at an event. -/
theorem tick_of_event (s : State) (a : Act) (as : List Act) (h : s.todo = a :: as) (he : a.isEvent = true) :
    s.tick = settle as (a.apply s) := by
  simp [State.tick, h, he]

/-- A command at the pace of whole commands is its acceptance, run to its end. -/
theorem exec_of_acceptInstr (i : Instr) (hc : i.isCommand = true) (s t : State) (h : acceptInstr i s = .next t) :
    exec i s = .next t.finish := by
  cases i <;> simp [Instr.isCommand] at hc <;> simp only [acceptInstr] at h <;> cases h <;> rfl

/-- Acceptance settles a position that ends in a response. -/
theorem acceptInstr_settles (i : Instr) (hc : i.isCommand = true) (s : State) :
    ∃ l t, acceptInstr i s = .next (settle l t) ∧ endsInResponse l = true ∧ t.busy = true ∧ t.upc = 0 ∧
      t.trace = [] ∧ t.txbuf = s.txbuf ∧ t.rxbuf = s.rxbuf := by
  cases i <;> simp [Instr.isCommand] at hc
  · exact ⟨initBody, s.accept.latch 0x1#4 0#7 0#8 0#12, rfl, rfl, rfl, rfl, rfl, rfl, rfl⟩
  · exact ⟨_, _, rfl, endsInResponse_bodyOrNoInit _ _ (endsInResponse_writeBody ..), rfl, rfl, rfl, rfl, rfl⟩
  · exact ⟨_, _, rfl, endsInResponse_bodyOrNoInit _ _ (endsInResponse_readBody ..), rfl, rfl, rfl, rfl, rfl⟩
  · exact ⟨_, _, rfl, endsInResponse_bodyOrNoInit _ _ (endsInResponse_probeBody ..), rfl, rfl, rfl, rfl, rfl⟩

/-- A run of one step more, for any machine. -/
theorem host_run_succ (M : Host.Core) (k : Nat) (s t : M.State) (h : M.step s = .next t) :
    M.run (k + 1) s = M.run k t := by
  simp [Host.Core.run, h]

/-- A run of one step more. -/
theorem core_run_succ (k : Nat) (s t : State) (h : step s = .next t) :
    Host.Core.run Sys2Proof.core (k + 1) s = Host.Core.run Sys2Proof.core k t :=
  host_run_succ Sys2Proof.core k s t h

/-- A run in two parts. -/
theorem core_run_add (j k : Nat) (s t : State) (h : Host.Core.run Sys2Proof.core j s = .next t) :
    Host.Core.run Sys2Proof.core (j + k) s = Host.Core.run Sys2Proof.core k t := by
  have key : ∀ (M : Host.Core) (j : Nat) (s t : M.State), M.run j s = .next t → M.run (j + k) s = M.run k t := by
    intro M j
    induction j with
    | zero =>
      intro s t h
      simp [Host.Core.run] at h
      rw [h, Nat.zero_add]
    | succ j ih =>
      intro s t h
      rw [Nat.add_right_comm]
      cases hs : M.step s with
      | next u =>
        rw [host_run_succ M _ s u hs] at h ⊢
        exact ih u t h
      | fault r => simp [Host.Core.run, hs] at h
      | refused r => simp [Host.Core.run, hs] at h
  exact key Sys2Proof.core j s t h

end Sys2Proof.Machine
end

