-- ==== Sys2Proof/Tests/Slice0.lean ====
section
/-! SUPPORT. The model's own tests. The expected results are those of 95_test_vectors.md (the vector is named in each
comment), of 30_encoding.md and of the rule a comment names. After them, for each statement of
Certificates/Slice0/Obligations.lean that has hypotheses, a theorem that shows them met, at the ends of each range. -/

namespace Sys2Proof.Tests

open Sys2Proof Sys2Proof.Machine

/-! ## Well-formedness: the ill-formed terms are refused, the terms at the end of the range are not -/

theorem test_wellFormed_write_4096_refused : (Instr.write 0x50#7 0x10#8 4096).wellFormed = false := by decide
theorem test_wellFormed_read_4096_refused : (Instr.read 0x50#7 0x10#8 4096).wellFormed = false := by decide
theorem test_wellFormed_write_4095 : (Instr.write 0x7F#7 0xFF#8 4095).wellFormed = true := by decide
theorem test_wellFormed_read_4095 : (Instr.read 0x7F#7 0xFF#8 4095).wellFormed = true := by decide

/-! ## Decoding -/

/-- V1a to V1g, V1o. -/
theorem test_decode_commands :
    decode (.cmd 0b00010000000000000000000000000000#32) = .ok .init ∧
    decode (.cmd 0b00100101000000010000000000000010#32) = .ok (.write 0x50#7 0x10#8 2) ∧
    decode (.cmd 0b00110101000000010000000000000011#32) = .ok (.read 0x50#7 0x10#8 3) ∧
    decode (.cmd 0b00110101000000010000000000000000#32) = .ok (.read 0x50#7 0x10#8 0) ∧
    decode (.cmd 0b01000101000000000000000000000000#32) = .ok (.probe 0x50#7) ∧
    decode (.cmd 0x27FFFFFF#32) = .ok (.write 0x7F#7 0xFF#8 4095) ∧
    decode (.cmd 0x20000000#32) = .ok (.write 0#7 0#8 0) ∧
    decode (.cmd 0x47F00000#32) = .ok (.probe 0x7F#7) := by decide

/-- V1h to V1n. -/
theorem test_decode_illegal_commands :
    decode (.cmd 0x00000000#32) = .rejected .reservedOp ∧
    decode (.cmd 0x50000000#32) = .rejected .reservedOp ∧
    decode (.cmd 0xF5010002#32) = .rejected .reservedOp ∧
    decode (.cmd 0x2D010002#32) = .rejected .zBitSet ∧
    decode (.cmd 0x10000001#32) = .rejected .unusedFieldSet ∧
    decode (.cmd 0x45000001#32) = .rejected .unusedFieldSet ∧
    decode (.cmd 0x45001000#32) = .rejected .unusedFieldSet := by decide

/-- 95_test_vectors.md §2, "UOP12 words". -/
theorem test_decode_micro_operations :
    decode (.uop 0b000100000000#12) = .ok .start ∧
    decode (.uop 0b001000000000#12) = .ok .stop ∧
    decode (.uop 0b001100000000#12) = .ok (.txbit false) ∧
    decode (.uop 0b001100000001#12) = .ok (.txbit true) ∧
    decode (.uop 0b010000000000#12) = .ok .rxbit ∧
    decode (.uop 0b010110100000#12) = .ok (.txbyte 0xA0#8) ∧
    decode (.uop 0b010100000000#12) = .ok (.txbyte 0#8) ∧
    decode (.uop 0b011000000000#12) = .ok (.rxbyte false) ∧
    decode (.uop 0b011000000001#12) = .ok (.rxbyte true) ∧
    decode (.uop 0b011100000000#12) = .ok .wack := by decide

/-- 95_test_vectors.md §2: "0x000, 0x302, 0x101, 0x800 name nothing". -/
theorem test_decode_no_micro_operation :
    decode (.uop 0x000#12) = .rejected .reservedUopc ∧ decode (.uop 0x302#12) = .rejected .argBitSet ∧
    decode (.uop 0x101#12) = .rejected .argBitSet ∧ decode (.uop 0x800#12) = .rejected .reservedUopc := by decide

/-- The numbering of the opcode table: a row of 12 bits and a row of 32. -/
theorem test_decodeTableWord :
    decodeTableWord 16 0x5A0 = some (.txbyte 0xA0#8) ∧
    decodeTableWord 32 0x25010002 = some (.write 0x50#7 0x10#8 2) ∧
    decodeTableWord 16 0x1100 = none ∧ decodeTableWord 32 0 = none := by decide

/-- 95_test_vectors.md §2, "Address bytes". -/
theorem test_address_bytes :
    addressByte 0x00#7 false = 0x00#8 ∧ addressByte 0x00#7 true = 0x01#8 ∧
    addressByte 0x50#7 false = 0xA0#8 ∧ addressByte 0x50#7 true = 0xA1#8 ∧
    addressByte 0x7F#7 false = 0xFE#8 ∧ addressByte 0x7F#7 true = 0xFF#8 ∧
    addressByte 0x3C#7 false = 0x78#8 ∧ addressByte 0x3C#7 true = 0x79#8 := by decide

/-- R61, R62: assembler forms, a number out of range, and the pseudo-forms. -/
theorem test_assemble :
    assemble (.write 0x50 0x10 2) = some (.cmd 0x25010002#32) ∧ assemble (.write 0x80 0x10 2) = none ∧
    assemble (.read 0x50 0x10 4096) = none ∧ assemble .rstart = some (.uop 0x100#12) ∧
    assemble .ackbit = some (.uop 0x300#12) ∧ assemble .nackbit = some (.uop 0x301#12) ∧
    assemble (.txaddr 0x50 1) = some (.uop 0x5A1#12) ∧ assemble (.txbit 2) = none := by decide

/-! ## States and answers to look at -/

/-- After INIT: idle. -/
def ready : State := { State.reset with inited := true }

/-- A micro-operation under way: the clock held LOW, the data line LOW. -/
def clockLow : State := { State.reset with inited := true, sclOut := false, sdaOut := false }

/-- `ready`, the environment answering these levels (R27). -/
def answering (ls : List Level) : State := { ready with script := ls }

/-- The levels of logical bits, as the vectors write oracle scripts. -/
def levels (bits : List Bool) : List Level := bits.map Level.ofBit

/-- `answering` with TXBUF `[0x55, 0xAA]`. -/
def writing (ls : List Level) : State := { answering ls with txbuf := [(0, 0x55#8), (1, 0xAA#8)] }

/-- What an outcome's next state shows of itself, if there is one. -/
def shows {α : Type} (o : Host.Outcome State Fault Refusal) (f : State → α) : Option α :=
  match o with
  | .next t => some (f t)
  | .fault _ => none
  | .refused _ => none

def refusal (o : Host.Outcome State Fault Refusal) : Option Refusal :=
  match o with
  | .next _ => none
  | .fault _ => none
  | .refused r => some r

/-- The latches, as the vectors write them. -/
def latches (t : State) : Bool × Bool := (t.sclOut, t.sdaOut)

/-! The vectors' letters. -/

abbrev c0 : Event := .w .scl .low
abbrev c1 : Event := .w .scl .high
abbrev d0 : Event := .w .sda .low
abbrev d1 : Event := .w .sda .high
abbrev dT : Event := .d 5#16
abbrev r0 : Event := .r .low
abbrev r1 : Event := .r .high

/-- A cell of the vectors' traces, `d1 T c1 T c0`. -/
abbrev one : List Event := [d1, dT, c1, dT, c0]
/-- `d0 T c1 T c0`. -/
abbrev zero : List Event := [d0, dT, c1, dT, c0]
/-- `d1 c1 T r0 c0`. -/
abbrev got0 : List Event := [d1, c1, dT, r0, c0]
/-- `d1 c1 T r1 c0`. -/
abbrev got1 : List Event := [d1, c1, dT, r1, c0]

/-! ## Micro-operations -/

/-- V2a. -/
theorem test_start :
    shows (exec .start State.reset) (fun t => (t.trace, latches t, t.phase)) =
      some ([d1, c1, dT, d0, dT, c0], (false, false), .started) := by decide +kernel

/-- V2b and its waveform. -/
theorem test_start_repeated :
    shows (exec .start { clockLow with sdaOut := true }) (fun t => (waveform false true t.trace, latches t)) =
      some ([(true, true), (true, false)], (false, false)) := by decide +kernel

/-- V3c. -/
theorem test_stop :
    shows (exec .stop clockLow) (fun t => (t.trace, latches t, t.phase)) =
      some ([d0, dT, c1, dT, d1, dT], (true, true), .stopped) := by decide +kernel

/-- V3a and its waveform. -/
theorem test_stop_waveform :
    shows (exec .stop { clockLow with sdaOut := true }) (fun t => waveform false true t.trace) =
      some [(false, false), (true, false), (true, true)] := by decide +kernel

/-- V4a. -/
theorem test_txbit_1 :
    shows (exec (.txbit true) clockLow) (fun t => (t.trace, latches t)) = some (one, (false, true)) := by
  decide +kernel

/-- V4b. -/
theorem test_txbit_0 :
    shows (exec (.txbit false) clockLow) (fun t => (t.trace, latches t)) = some (zero, (false, false)) := by
  decide +kernel

/-- V4c. -/
theorem test_rxbit_1 :
    shows (exec .rxbit { clockLow with script := [.high] }) (fun t => (t.trace, t.rxbit, latches t)) =
      some (got1, true, (false, true)) := by decide +kernel

/-- V4d. -/
theorem test_rxbit_0 :
    shows (exec .rxbit { clockLow with script := [.low] }) (fun t => (t.trace, t.rxbit, latches t)) =
      some (got0, false, (false, true)) := by decide +kernel

/-- V5. -/
theorem test_txbyte_A5 :
    shows (exec (.txbyte 0xA5#8) clockLow) (fun t => (t.trace, latches t, t.shr, t.bitcnt)) =
      some (one ++ zero ++ one ++ zero ++ zero ++ one ++ zero ++ one, (false, true), 0#8, 8#4) := by decide +kernel

/-- P5: `0x5A0` alone from idle is refused. -/
theorem test_txbyte_clock_high :
    refusal (step (State.reset.withFetchWord 16 0x5A0)) = some .clockHigh := by decide +kernel

/-- V7. -/
theorem test_rxbyte_ack :
    shows (exec (.rxbyte true)
        { clockLow with script := levels [true, false, true, false, false, true, false, true] })
        (fun t => (t.trace, t.shr, latches t)) =
      some (d1 :: got1 ++ got0 ++ got1 ++ got0 ++ got0 ++ got1 ++ got0 ++ got1 ++ zero, 0xA5#8, (false, false)) := by
  decide +kernel

/-- V7e, with V7b's acknowledgment bit. -/
theorem test_rxbyte_nack :
    shows (exec (.rxbyte false)
        { clockLow with script := levels [true, false, false, false, false, false, false, false] })
        (fun t => (t.shr, latches t, t.trace.drop 41)) = some (0x80#8, (false, true), one) := by decide +kernel

/-- V6a. -/
theorem test_wack_acked :
    shows (exec .wack { clockLow with script := [.low] }) (fun t => (t.trace, t.ackf, latches t)) =
      some (got0, true, (false, true)) := by decide +kernel

/-- V6b. -/
theorem test_wack_nacked :
    shows (exec .wack { clockLow with script := [.high] }) (fun t => (t.trace, t.ackf, latches t)) =
      some (got1, false, (false, true)) := by decide +kernel

/-! ## Commands -/

/-- P1 command 1, run as the first word after reset. -/
theorem test_init :
    shows (step (State.reset.withFetchWord 32 0x10000000))
        (fun t => (t.trace, t.inited, t.phase, t.status, latches t)) =
      some ([.cfg .scl, .cfg .sda, c1, d1, .rsp .ok], true, .idle, .ok, (true, true)) := by decide +kernel

/-- R85: a second INIT from a stopped transaction. -/
theorem test_init_again :
    shows (exec .init { ready with phase := .stopped }) (fun t => (t.phase, t.sclMode, t.sdaMode)) =
      some (.idle, .openDrainOutput, .openDrainOutput) := by decide +kernel

/-- P1 command 2, in full. -/
theorem test_probe_acked :
    shows (exec (.probe 0x50#7) (answering [.low])) (fun t => (t.trace, t.phase, t.status)) =
      some ([d1, c1, dT, d0, dT, c0] ++ one ++ zero ++ one ++ zero ++ zero ++ zero ++ zero ++ zero ++ got0
        ++ [d0, dT, c1, dT, d1, dT, .rsp .ok], .stopped, .ok) := by decide +kernel

/-- P2 command 2. -/
theorem test_probe_nacked :
    shows (exec (.probe 0x51#7) (answering [.high])) (fun t => (frame t.trace, eventCounts t.trace, t.status, t.ackf)) =
      some ([.start, .sentByte 0xA2#8 false, .stop], [57, 22, 1, 0, 0], .nack, false) := by decide +kernel

/-- P1 command 3. -/
theorem test_write_two_bytes :
    shows (exec (.write 0x50#7 0x10#8 2) (writing (levels [false, false, false, false])))
        (fun t => (frame t.trace, eventCounts t.trace, t.status, t.idx)) =
      some ([.start, .sentByte 0xA0#8 true, .sentByte 0x10#8 true, .sentByte 0x55#8 true, .sentByte 0xAA#8 true, .stop],
        [192, 73, 4, 2, 0], .ok, 2#12) := by decide +kernel

/-- P2 command 3. -/
theorem test_write_last_byte_nacked :
    shows (exec (.write 0x50#7 0x10#8 2) (writing (levels [false, false, false, true])))
        (fun t => (eventCounts t.trace, loads t.trace, t.status, t.idx)) =
      some ([192, 73, 4, 2, 0], [(0#12, 0x55#8), (1#12, 0xAA#8)], .nack, 1#12) := by decide +kernel

/-- P3 command 2. -/
theorem test_read_two_bytes :
    shows (exec (.read 0x50#7 0x10#8 2)
        { answering (levels [false, false, false, true, true, false, true, true, true, true, false,
            true, false, true, false, true, true, false, true]) with
          rxbuf := [(0, 0x11#8), (1, 0x22#8), (2, 0x33#8), (3, 0x44#8)] })
        (fun t => (frame t.trace, eventCounts t.trace, t.rxbuf, t.idx)) =
      some ([.start, .sentByte 0xA0#8 true, .sentByte 0x10#8 true, .start, .sentByte 0xA1#8 true,
          .gotByte 0xDE#8 true, .gotByte 0xAD#8 false, .stop],
        [245, 78, 19, 0, 2], [(0, 0xDE#8), (1, 0xAD#8), (2, 0x33#8), (3, 0x44#8)], 2#12) := by decide +kernel

/-- P4 command 5. -/
theorem test_read_nacked :
    shows (exec (.read 0x50#7 0x10#8 2)
        { answering (levels [false, false, true]) with rxbuf := [(0, 0x11#8), (1, 0x22#8)] })
        (fun t => (eventCounts t.trace, t.rxbuf, t.status)) =
      some ([153, 58, 3, 0, 0], [(0, 0x11#8), (1, 0x22#8)], .nack) := by decide +kernel

/-! ## Steps -/

/-- P4 command 1, from reset. -/
theorem test_step_noinit :
    shows (step (State.reset.withFetchWord 32 0x45000000)) (fun t => (t.trace, t.status, latches t, t.phase)) =
      some ([.rsp .noinit], .noinit, (true, true), .idle) := by decide +kernel

/-- P4 command 2. -/
theorem test_step_illegal :
    shows (step (State.reset.withFetchWord 32 0)) (fun t => (t.trace, t.status, t.inited, t.op)) =
      some ([.rsp .illegal], .illegal, false, 0#4) := by decide +kernel

/-- P5: the micro-operation program of P1 command 2. -/
theorem test_program_of_probe :
    shows (execAll [.start, .txbyte 0xA0#8, .wack, .stop] (answering [.low]))
        (fun t => (eventCounts t.trace, t.ackf, latches t)) =
      some ([57, 22, 1, 0, 0], true, (true, true)) := by decide +kernel

/-- R121: reset in the middle of a PROBE releases both lines and emits nothing. -/
theorem test_reset_during_probe :
    shows (step { ready with busy := true, sclOut := false, sdaOut := false, phase := .started,
                             todo := abortActs, trace := [c0], upc := 1, rstFor := 1 }) (fun t => (latches t, t.busy, t.phase, t.trace)) =
      some ((true, true), false, .idle, []) := by decide +kernel

/-! ## Witnesses -/

/-- The first `k` reads answered LOW. -/
def acked (k : Nat) : State := answering (List.replicate k .low)

/-- The first `k` reads answered LOW and the next one HIGH. -/
def nackedAt (k : Nat) : State := answering (List.replicate k .low ++ [.high])

theorem acked_allAcked (k : Nat) : AllAcked (acked k) k := by
  intro j hj
  simp [State.answer, acked, answering, hj]

theorem nackedAt_firstNack (k : Nat) : FirstNack (nackedAt k) k := by
  refine ⟨fun j hj => ?_, ?_⟩
  · simp [State.answer, nackedAt, answering, List.getElem?_append, hj]
  · simp [State.answer, nackedAt, answering]

/-- `s` with a word presented, at the pace of events. -/
def offering (w : PortWord) (s : State) : State := { s with inbox := [w], pace := .event }

/-- A PROBE at the pace of events, before its address byte: a running command. -/
def probing : State :=
  { ready with
    busy := true, sclOut := false, sdaOut := false, phase := .started, pace := .event, op := 4#4, addr7 := 0x50#7,
    trace := startTrace 5#16, upc := 6, script := [.low], inbox := [.cmd 0x10000000#32],
    todo := sendBitActs ++ stopActs ++ [.respondAck] }

theorem probing_sound : probing.Sound :=
  ⟨by decide, by decide, by decide, (fun _ => by decide), fun _ => ⟨_, _, rfl, rfl⟩, (fun h => by cases h)⟩

theorem probing_busSound : probing.BusSound :=
  ⟨probing_sound, (fun w hw => by simp [probing] at hw; exact ⟨_, hw⟩), (fun h => by cases h), (fun h => by cases h),
    (fun _ => by decide +kernel), (fun _ => by decide +kernel)⟩

theorem witness_DecodeOfEncode :
    (Instr.write 0x7F#7 0xFF#8 4095).wellFormed = true ∧ (Instr.read 0#7 0#8 0).wellFormed = true ∧
    (Instr.txbyte 0xFF#8).wellFormed = true := by decide

theorem witness_EncodeOfDecode :
    decode (.cmd 0x27FFFFFF#32) = .ok (.write 0x7F#7 0xFF#8 4095) ∧ decode (.uop 0x601#12) = .ok (.rxbyte true) := by
  decide

theorem witness_StartEvents : State.reset.sdaOut = true := rfl

theorem witness_StartEventsFromDataLow : clockLow.sdaOut = false := rfl

/-- STOP, TXBIT, RXBIT, TXBYTE, RXBYTE and WACK. -/
theorem witness_clock_low_micro_operations : clockLow.sclOut = false := rfl

theorem witness_ClockHighIsRefused : State.reset.sclOut = true := rfl

/-- MicroOperationsLeaveLatches and MicroOperationFrame: every micro-operation completes. -/
theorem witness_micro_operations_complete :
    ∀ i ∈ [Instr.start, .stop, .txbit true, .rxbit, .txbyte 0xA5#8, .rxbyte false, .wack],
      i.isCommand = false ∧ ∃ t, exec i clockLow = .next t := by
  intro i hi
  simp only [List.mem_cons, List.not_mem_nil, or_false] at hi
  rcases hi with rfl | rfl | rfl | rfl | rfl | rfl | rfl <;> exact ⟨rfl, _, rfl⟩

/-- InitReleasesTheLines, ProbeAnswersTheAcknowledgment. -/
theorem witness_ready : ready.busy = false ∧ ready.inited = true := ⟨rfl, rfl⟩

/-- WriteSendsEveryByte and the clauses over a successful WRITE. -/
theorem witness_write_acked :
    ((acked 2).busy = false ∧ (acked 2).inited = true ∧ 0 < 4096 ∧ AllAcked (acked 2) (0 + 2)) ∧
    ((acked 4097).busy = false ∧ (acked 4097).inited = true ∧ 4095 < 4096 ∧ AllAcked (acked 4097) (4095 + 2)) :=
  ⟨⟨rfl, rfl, by omega, acked_allAcked 2⟩, rfl, rfl, by omega, acked_allAcked 4097⟩

/-- WriteAbortsAtFirstNack and the clauses over a WRITE that aborts: the address byte, the register byte, the first
data byte and the last of 4095. -/
theorem witness_write_nacked :
    ((nackedAt 0).busy = false ∧ (nackedAt 0).inited = true ∧ 0 < 0 + 2 ∧ FirstNack (nackedAt 0) 0) ∧
    ((nackedAt 1).busy = false ∧ (nackedAt 1).inited = true ∧ 1 < 0 + 2 ∧ FirstNack (nackedAt 1) 1) ∧
    ((nackedAt 2).busy = false ∧ (nackedAt 2).inited = true ∧ 2 < 1 + 2 ∧ FirstNack (nackedAt 2) (0 + 2)) ∧
    ((nackedAt 4096).busy = false ∧ (nackedAt 4096).inited = true ∧ 4096 < 4095 + 2 ∧
      FirstNack (nackedAt 4096) (4094 + 2)) :=
  ⟨⟨rfl, rfl, by omega, nackedAt_firstNack 0⟩, ⟨rfl, rfl, by omega, nackedAt_firstNack 1⟩,
    ⟨rfl, rfl, by omega, nackedAt_firstNack 2⟩, rfl, rfl, by omega, nackedAt_firstNack 4096⟩

/-- ReadFillsTheBuffer, ReadStoresBytesInOrder and the clauses over a successful READ; `n` is free of the answers. -/
theorem witness_read_acked :
    (acked 3).busy = false ∧ (acked 3).inited = true ∧ (0 : Nat) < 4096 ∧ (4095 : Nat) < 4096 ∧
    (acked 3).rxbuf.wf ∧ AllAcked (acked 3) 3 :=
  ⟨rfl, rfl, by omega, by omega, by decide, acked_allAcked 3⟩

/-- ReadAbortsAtFirstNack and the clauses over a READ that aborts. -/
theorem witness_read_nacked :
    ((nackedAt 0).busy = false ∧ (nackedAt 0).inited = true ∧ FirstNack (nackedAt 0) 0) ∧
    ((nackedAt 1).busy = false ∧ (nackedAt 1).inited = true ∧ FirstNack (nackedAt 1) 1) ∧
    ((nackedAt 2).busy = false ∧ (nackedAt 2).inited = true ∧ FirstNack (nackedAt 2) 2) :=
  ⟨⟨rfl, rfl, nackedAt_firstNack 0⟩, ⟨rfl, rfl, nackedAt_firstNack 1⟩, rfl, rfl, nackedAt_firstNack 2⟩

/-- NotInitialisedIsRefused, and the clause of EventCountsOfEveryOutcome over `INITED` = 0. -/
theorem witness_NotInitialisedIsRefused :
    State.reset.busy = false ∧ State.reset.inited = false ∧ (0 : Nat) < 4096 ∧ (4095 : Nat) < 4096 := by decide

/-- IllegalWordIsAnswered at either pace, and the first clause of EventCountsOfEveryOutcome. -/
theorem witness_IllegalWordIsAnswered :
    Taking (State.reset.withFetchWord 32 0) (.cmd 0#32) [] ∧ (State.reset.withFetchWord 32 0).pace = .whole ∧
    (State.reset.withFetchWord 32 0).todo = [] ∧ decodeCmd 0#32 = .rejected .reservedOp ∧
    Taking (offering (.cmd 0x45000001#32) ready) (.cmd 0x45000001#32) [] ∧
    (offering (.cmd 0x45000001#32) ready).pace = .event ∧ (offering (.cmd 0x45000001#32) ready).todo = [] ∧
    decodeCmd 0x45000001#32 = .rejected .unusedFieldSet :=
  ⟨⟨rfl, rfl, rfl, rfl⟩, rfl, rfl, by decide, ⟨rfl, rfl, rfl, rfl⟩, rfl, rfl, by decide⟩

/-- OneResponseEndsEachCommand, CommandsLeaveTheBusIdle, PlatformCallsOfACommand, CommandsEndWithinTheBound. -/
theorem witness_commands :
    (∀ i ∈ [Instr.init, .write 0x50#7 0x10#8 4095, .read 0x50#7 0x10#8 0, .probe 0x50#7],
      i.isCommand = true ∧ i.wellFormed = true) ∧
    ready.busy = false ∧ ready.idle = true ∧ ready.phase.noTransaction = true := by decide

/-- CommandFrame: a next state, for a READ that stores. -/
theorem witness_CommandFrame :
    (Instr.read 0x50#7 0x10#8 1).isCommand = true ∧ (Instr.read 0x50#7 0x10#8 1).wellFormed = true ∧
    (acked 11).busy = false ∧ ∃ t, exec (.read 0x50#7 0x10#8 1) (acked 11) = .next t :=
  ⟨rfl, rfl, rfl, _, rfl⟩

/-- FailedReadStoresNothing: the status is not OK. -/
theorem witness_FailedReadStoresNothing :
    (nackedAt 2).busy = false ∧
    shows (exec (.read 0x50#7 0x10#8 2) (nackedAt 2)) (fun t => decide (t.status ≠ .ok)) = some true := by
  decide +kernel

/-- DataStableWhileClockHigh and ProbeOpensLikeWriteAndRead: the READ that reaches its repeated START, and the one that
does not. -/
theorem witness_DataStableWhileClockHigh :
    ((acked 3).answer 0 = .low ∧ (acked 3).answer 1 = .low ∧ (acked 3).busy = false ∧ (acked 3).inited = true) ∧
    ((nackedAt 1).answer 1 = .high ∧ (nackedAt 1).busy = false ∧ (nackedAt 1).inited = true) := by decide

/-- CommandsAreMicroOperationPrograms, for PROBE, for a WRITE of two bytes and for a READ. -/
theorem witness_CommandsAreMicroOperationPrograms :
    (acked 4).busy = false ∧ (acked 4).inited = true ∧ (acked 4).sclOut = true ∧ (acked 4).sdaOut = true ∧
    AllAcked (acked 4) 1 ∧ AllAcked (acked 4) (2 + 2) ∧ AllAcked (acked 4) 3 :=
  ⟨rfl, rfl, rfl, rfl, fun j hj => acked_allAcked 4 j (by omega), acked_allAcked 4,
    fun j hj => acked_allAcked 4 j (by omega)⟩

theorem witness_CommandsIgnoreEphemeralRegisters :
    ready.sameButEphemeral { ready with idx := 7#12, shr := 0xA5#8, ackf := true, op := 2#4 } ∧
    ready ≠ { ready with idx := 7#12, shr := 0xA5#8, ackf := true, op := 2#4 } :=
  ⟨rfl, by decide⟩

theorem witness_HalfPeriodIsOnlyAnArgument :
    (Instr.probe 0x50#7).wellFormed = true ∧ ∃ t, exec (.probe 0x50#7) (acked 1) = .next t := ⟨rfl, _, rfl⟩

theorem witness_StepRunsTheDecodedInstruction :
    Taking (State.reset.withFetchWord 16 0x100) (.uop 0x100#12) [] ∧
    (State.reset.withFetchWord 16 0x100).pace = .whole ∧ decode (.uop 0x100#12) = .ok .start :=
  ⟨⟨rfl, rfl, rfl, rfl⟩, rfl, by decide⟩

theorem witness_FetchWordIsRunNext :
    State.reset.cfg.ok = true ∧ decodeTableWord 16 0x700 = some .wack ∧
    decodeTableWord 32 0x47F00000 = some (.probe 0x7F#7) := by decide

/-- AcceptanceLatchesTheCommand, one clause for each command. -/
theorem witness_AcceptanceLatchesTheCommand :
    ∀ i ∈ [Instr.write 0x50#7 0x10#8 4095, .read 0x50#7 0x10#8 0, .probe 0x50#7, .init],
      Taking (offering (encode i) ready) (encode i) [] ∧ (offering (encode i) ready).pace = .event :=
  fun _ _ => ⟨⟨rfl, rfl, rfl, rfl⟩, rfl⟩

/-- BusyHoldsOffTheNextCommand, EachStepEmitsOneEvent. -/
theorem witness_running_command :
    probing.Sound ∧ probing.cfg.ok = true ∧ probing.rstFor = 0 ∧ probing.busy = true ∧ probing.pace = .event :=
  ⟨probing_sound, rfl, rfl, rfl, rfl⟩

/-- EventPaceRunsTheWholeCommand. -/
theorem witness_EventPaceRunsTheWholeCommand :
    Taking (offering (.cmd 0x45000000#32) (acked 1)) (.cmd 0x45000000#32) [] ∧
    (offering (.cmd 0x45000000#32) (acked 1)).pace = .event ∧
    decode (.cmd 0x45000000#32) = .ok (.probe 0x50#7) ∧ (Instr.probe 0x50#7).isCommand = true :=
  ⟨⟨rfl, rfl, rfl, rfl⟩, rfl, by decide, rfl⟩

/-- PhaseAlongARead, `n` = 0 and `n` = 4095. -/
theorem witness_PhaseAlongARead :
    ∀ n ∈ [0, 4095],
      Taking (offering (encode (.read 0x50#7 0x10#8 n)) (acked 3)) (encode (.read 0x50#7 0x10#8 n)) [] ∧
      (offering (encode (.read 0x50#7 0x10#8 n)) (acked 3)).pace = .event ∧
      (offering (encode (.read 0x50#7 0x10#8 n)) (acked 3)).inited = true ∧ n < 4096 ∧
      AllAcked (offering (encode (.read 0x50#7 0x10#8 n)) (acked 3)) 3 := by
  intro n hn
  refine ⟨⟨rfl, rfl, rfl, rfl⟩, rfl, rfl, ?_, acked_allAcked 3⟩
  simp only [List.mem_cons, List.not_mem_nil, or_false] at hn
  omega

theorem witness_ResetOverridesEverything :
    ({ probing with rstFor := 1 } : State).cfg.ok = true ∧ ({ probing with rstFor := 1 } : State).rstFor ≠ 0 := by
  decide

theorem witness_ControllerWaitsForACommand :
    ready.cfg.ok = true ∧ ready.rstFor = 0 ∧ ready.busy = false ∧ ready.inbox = [] := by decide

theorem witness_UnknownMicroOperationIsRefused :
    Taking (State.reset.withFetchWord 16 0x302) (.uop 0x302#12) [] ∧ decodeUop 0x302#12 = .rejected .argBitSet :=
  ⟨⟨rfl, rfl, rfl, rfl⟩, by decide⟩

theorem witness_OnePinForBothLinesIsRefused :
    ({ State.reset with cfg := { Config.default with sdaPin := 0 } } : State).cfg.sdaPin =
      ({ State.reset with cfg := { Config.default with sdaPin := 0 } } : State).cfg.sclPin := rfl

/-- StepKeepsSound and StepKeepsBusSound: a step of a running command, and one that accepts a word. -/
theorem witness_StepKeepsBusSound :
    probing.BusSound ∧ (∃ t, step probing = .next t) ∧
    (State.reset.withFetchWord 32 0x10000000).BusSound ∧
    ∃ t, step (State.reset.withFetchWord 32 0x10000000) = .next t :=
  ⟨probing_busSound, ⟨_, rfl⟩,
    ⟨⟨by decide, by decide, by decide, (fun h => by cases h), (fun h => by cases h), fun _ => rfl⟩,
      (fun w hw => by
        simp [State.withFetchWord, State.present, tableWord, State.reset] at hw
        exact ⟨_, hw⟩),
      (fun _ => by decide), (fun _ => by decide), (fun h => by cases h), (fun h => by cases h)⟩,
    ⟨_, rfl⟩⟩

end Sys2Proof.Tests
end

section
/-! SUPPORT. Proofs of the statements of 00_scope.md: a configuration with one pin for both lines, a command run event
by event, and what the commands leave alone. -/

namespace Sys2Proof.Machine

/-! ## A command is the run of its body -/

/-- What an accepted command has to do: its body, or the answer NOINIT. A micro-operation is not accepted. -/
def State.bodyOf (s : State) : Instr → List Act
  | .init => initBody
  | .write a r n => bodyOrNoInit s (writeBody a r (BitVec.ofNat 12 n).toNat)
  | .read a r n => bodyOrNoInit s (readBody a r (BitVec.ofNat 12 n).toNat)
  | .probe a => bodyOrNoInit s (probeBody a)
  | .start | .stop | .txbit _ | .rxbit | .txbyte _ | .rxbyte _ | .wack => []

/-- Acceptance places the sequencer at the beginning of the command's body (R83). -/
theorem acceptInstr_eq_settle_bodyOf (i : Instr) (hc : i.isCommand = true) (s : State) :
    ∃ op a r n, acceptInstr i s = .next (settle (s.bodyOf i) (s.begun op a r n)) := by
  have key : ∀ l op a r n,
      (s.accept.latch op a r n).start l = settle l (s.begun op a r n) :=
    fun l op a r n => (settle_todo l (s.accept.latch op a r n) []).symm
  cases i <;> simp only [Instr.isCommand, Bool.false_eq_true] at hc
  case init => exact ⟨0x1#4, 0#7, 0#8, 0#12, by simp only [acceptInstr, startInit, key, State.bodyOf]⟩
  case write a r n =>
    exact ⟨0x2#4, a, r, BitVec.ofNat 12 n, by simp only [acceptInstr, startWrite, key, State.bodyOf]; rfl⟩
  case read a r n =>
    exact ⟨0x3#4, a, r, BitVec.ofNat 12 n, by simp only [acceptInstr, startRead, key, State.bodyOf]; rfl⟩
  case probe a => exact ⟨0x4#4, a, 0#8, 0#12, by simp only [acceptInstr, startProbe, key, State.bodyOf]; rfl⟩

theorem exec_eq_run_bodyOf (i : Instr) (hc : i.isCommand = true) (s : State) :
    ∃ op a r n, exec i s = .next (run (s.bodyOf i) (s.begun op a r n)) := by
  obtain ⟨op, a, r, n, h⟩ := acceptInstr_eq_settle_bodyOf i hc s
  exact ⟨op, a, r, n, (exec_of_acceptInstr i hc s _ h).trans (congrArg _ (finish_settle _ _))⟩

theorem endsInResponse_bodyOf (i : Instr) (hc : i.isCommand = true) (s : State) :
    endsInResponse (s.bodyOf i) = true := by
  cases i <;> simp only [Instr.isCommand, Bool.false_eq_true] at hc
  case init => rfl
  case write a r n => exact endsInResponse_bodyOrNoInit _ _ (endsInResponse_writeBody ..)
  case read a r n => exact endsInResponse_bodyOrNoInit _ _ (endsInResponse_readBody ..)
  case probe a => exact endsInResponse_bodyOrNoInit _ _ (endsInResponse_probeBody ..)

/-! ## The event pace reaches the end of the run -/

/-- A step emits one event of a running command: nothing is in the way, and the pace is that of events. -/
def EventPaced (s : State) : Prop := s.cfg.ok = true ∧ s.rstFor = 0 ∧ s.pace = .event

theorem EventPaced.of_sameOutside {s t : State} (hs : EventPaced s) (h : SameOutside s t) : EventPaced t := by
  obtain ⟨hcfg, hrst, hpace⟩ := hs
  obtain ⟨-, -, -, -, -, cfg, rst, pace⟩ := h
  exact ⟨cfg ▸ hcfg, rst.trans hrst, pace.trans hpace⟩

/-- As many steps as events are missing reach the end of the run. -/
def FinishesByEvents (s : State) : Prop :=
  ∃ k, s.finish.upc = s.upc + k ∧ Host.Core.run Sys2Proof.core k s = .next s.finish

/-- With nothing left to do the end is reached. -/
theorem finishesByEvents_of_done (s : State) (h : s.todo = []) : FinishesByEvents s := by
  have hs : s.finish = s := by rw [State.finish, h, run_nil, ← h]
  exact ⟨0, by rw [hs, Nat.add_zero], by rw [hs]; rfl⟩

/-- One event, and then the rest. -/
theorem finishesByEvents_of_event (s : State) (hp : EventPaced s) (hb : s.busy = true) (a : Act) (as : List Act)
    (h : s.todo = a :: as) (he : a.isEvent = true) (hrest : FinishesByEvents (settle as (a.apply s))) :
    FinishesByEvents s := by
  obtain ⟨hcfg, hrst, hpace⟩ := hp
  obtain ⟨k, hupc, hrun⟩ := hrest
  have htick := tick_of_event s a as h he
  have hstep : step s = .next (settle as (a.apply s)) := by
    rw [step_of_busy s hcfg hrst hb a as h, advance, hpace, htick]
  have hone : (settle as (a.apply s)).upc = s.upc + 1 := by
    obtain ⟨-, -, hsettle, -, -⟩ := settle_sameEmitted as (a.apply s)
    obtain ⟨_, -, happly⟩ := apply_event a s he
    exact hsettle.trans happly
  rw [← htick, finish_tick] at hupc hrun
  refine ⟨k + 1, ?_, ?_⟩
  · rw [hupc, htick, hone]
    omega
  · rw [core_run_succ k s _ hstep, ← htick, hrun]

/-- How long a position is, an abort test counting for more than the abort it may lead to. -/
def positionWeight (l : List Act) : Nat := l.length + abortActs.length * l.count .abortIfNack

theorem positionWeight_lt_cons (a : Act) (l : List Act) : positionWeight l < positionWeight (a :: l) := by
  have hcount : l.count .abortIfNack ≤ (a :: l).count .abortIfNack := List.count_le_count_cons
  have := Nat.mul_le_mul_left abortActs.length hcount
  simp only [positionWeight, List.length_cons]
  omega

theorem positionWeight_abortActs_lt (l : List Act) :
    positionWeight abortActs < positionWeight (.abortIfNack :: l) := by
  have habort : positionWeight abortActs = abortActs.length := by decide
  rw [habort, positionWeight, List.count_cons_self, Nat.mul_succ, List.length_cons]
  omega

/-- A settled position that ends in a response reaches its end event by event. -/
theorem settle_finishesByEvents (l : List Act) (s : State) (hp : EventPaced s) (hb : s.busy = true)
    (hl : endsInResponse l = true) : FinishesByEvents (settle l s) := by
  match l with
  | [] => simp [endsInResponse] at hl
  | a :: l =>
    have hrest (hr : a.isResponse = false) : FinishesByEvents (settle l (a.apply s)) :=
      settle_finishesByEvents l _ (hp.of_sameOutside (apply_sameOutside a s)) ((apply_busy a s hr).trans hb)
        (by simpa [endsInResponse, hr] using hl)
    by_cases he : a.isEvent = true
    · have hset : settle (a :: l) s = { s with todo := a :: l } := by rw [settle, if_pos he]
      rw [hset]
      refine finishesByEvents_of_event _ hp hb a l rfl he ?_
      rw [apply_todo, settle_todo]
      cases hr : a.isResponse
      case true =>
        obtain rfl : l = [] := by simpa [endsInResponse, hr] using hl
        exact finishesByEvents_of_done _ rfl
      case false => exact hrest hr
    · by_cases habort : a = .abortIfNack ∧ s.ackf = false
      · have hset : settle (a :: l) s = settle abortActs s := by rw [settle, if_neg he, if_pos habort]; rfl
        rw [hset]
        exact settle_finishesByEvents abortActs s hp hb rfl
      · rw [settle, if_neg he, if_neg habort]
        exact hrest (Bool.eq_false_iff.mpr fun hr => he (isEvent_of_isResponse a hr))
termination_by positionWeight l
decreasing_by
  · exact positionWeight_lt_cons a l
  · exact habort.1 ▸ positionWeight_abortActs_lt l

/-- A command accepted at the event pace reaches the end of its run event by event, counted from 0 (R13). -/
theorem acceptInstr_finishesByEvents (i : Instr) (hc : i.isCommand = true) (s : State) (hp : EventPaced s) :
    ∃ t, acceptInstr i s = .next t ∧ t.upc = 0 ∧ FinishesByEvents t := by
  obtain ⟨op, a, r, n, haccept⟩ := acceptInstr_eq_settle_bodyOf i hc s
  obtain ⟨-, -, hupc, -, -⟩ := settle_sameEmitted (s.bodyOf i) (s.begun op a r n)
  exact ⟨_, haccept, hupc, settle_finishesByEvents _ _ hp rfl (endsInResponse_bodyOf i hc s)⟩

/-- At the event pace the step that takes a command's word accepts it. -/
theorem takeWord_eq_acceptInstr (w : PortWord) (i : Instr) (s : State) (hdec : decode w = .ok i)
    (hpace : s.pace = .event) : takeWord w s = acceptInstr i s := by
  simp only [takeWord, hdec, takeInstr, hpace]

/-! ## What running a list leaves alone -/

/-- Running the list, to its end or to an abort, leaves `f` of the state as it was. -/
def RunKeeps {α : Type} (f : State → α) (l : List Act) : Prop := ∀ s, f (run l s) = f s

theorem RunKeeps.comp {α β : Type} {f : State → α} {l : List Act} (h : RunKeeps f l) (g : α → β) :
    RunKeeps (fun s => g (f s)) l :=
  fun s => congrArg g (h s)

/-- Of two lists the second runs unless the first aborts. -/
theorem run_append_cases (l r : List Act) (s : State) :
    run (l ++ r) s = run r (run l s) ∨ run (l ++ r) s = run l s := by
  induction l generalizing s with
  | nil => exact .inl rfl
  | cons a l ih =>
    rw [List.cons_append, run, run]
    split
    · exact .inr rfl
    · exact ih _

theorem RunKeeps.append {α : Type} {f : State → α} {l r : List Act} (hl : RunKeeps f l) (hr : RunKeeps f r) :
    RunKeeps f (l ++ r) := by
  intro s
  rcases run_append_cases l r s with h | h <;> rw [h]
  · exact (hr _).trans (hl s)
  · exact hl s

/-- A list keeps what each of its actions and the abort keep. -/
theorem runKeeps_of_apply {α : Type} (f : State → α) (l : List Act) (hl : ∀ a ∈ l, ∀ s, f (a.apply s) = f s)
    (habort : ∀ s, f (applyAll abortActs s) = f s) : RunKeeps f l := by
  induction l with
  | nil => exact fun _ => rfl
  | cons a l ih =>
    intro s
    rw [run]
    split
    · exact habort s
    · exact (ih (fun b hb => hl b (by simp [hb])) _).trans (hl a (by simp) s)

/-- A command that was refused before INIT keeps what its body would. -/
theorem runKeeps_bodyOrNoInit {α : Type} {f : State → α} (s : State) {body : List Act} (hbody : RunKeeps f body)
    (hrefuse : RunKeeps f [.respond .noinit]) : RunKeeps f (bodyOrNoInit s body) := by
  unfold bodyOrNoInit
  split
  · exact hbody
  · exact hrefuse

/-- No action writes TXBUF (R31). -/
theorem apply_txbuf (a : Act) (s : State) : (a.apply s).txbuf = s.txbuf := by
  cases a
  case cfg p => cases p <;> rfl
  case write p l => cases p <;> rfl
  all_goals rfl

theorem runKeeps_txbuf (l : List Act) : RunKeeps State.txbuf l :=
  runKeeps_of_apply _ l (fun a _ => apply_txbuf a) fun s => by rw [applyAll_abortActs]

/-! ## Pin modes, `INITED`, RXBUF and `IDX` -/

/-- What only INIT writes. -/
def State.setup (s : State) : PinMode × PinMode × Bool := (s.sclMode, s.sdaMode, s.inited)

/-- What INIT and the stores of READ write. -/
def State.stored (s : State) : (PinMode × PinMode × Bool) × Memory := (s.setup, s.rxbuf)

/-- What INIT, the stores of READ, and the loops of WRITE and READ write. -/
def State.held (s : State) : ((PinMode × PinMode × Bool) × Memory) × Index := (s.stored, s.idx)

/-- The actions that write one of these. -/
def Act.writesHeld : Act → Bool
  | .cfg _ | .store | .clearIdx | .nextIdx | .setInited => true
  | .write _ _ | .writeTopBit | .delay | .sample | .load | .respond _ | .respondAck | .setShr _ | .clearBitcnt
  | .shiftOut | .shiftIn | .latchAck | .setPhase _ | .addressedIfAck | .abortIfNack => false

theorem apply_held (a : Act) (h : a.writesHeld = false) (s : State) : (a.apply s).held = s.held := by
  cases a <;> simp only [Act.writesHeld, Bool.true_eq_false] at h
  case write p l => cases p <;> rfl
  all_goals rfl

theorem runKeeps_held (l : List Act) (h : ∀ a ∈ l, a.writesHeld = false) : RunKeeps State.held l :=
  runKeeps_of_apply _ l (fun a ha => apply_held a (h a ha)) fun s => by rw [applyAll_abortActs]; rfl

theorem RunKeeps.stored {l : List Act} (h : RunKeeps State.held l) : RunKeeps State.stored l := h.comp Prod.fst

theorem RunKeeps.idx {l : List Act} (h : RunKeeps State.held l) : RunKeeps State.idx l := h.comp Prod.snd

theorem RunKeeps.setup {l : List Act} (h : RunKeeps State.stored l) : RunKeeps State.setup l := h.comp Prod.fst

theorem RunKeeps.rxbuf {l : List Act} (h : RunKeeps State.stored l) : RunKeeps State.rxbuf l := h.comp Prod.snd

/-! ## The parts of the bodies -/

theorem runKeeps_held_startActs : RunKeeps State.held startActs := runKeeps_held _ (by decide)

theorem runKeeps_held_stop_respond (st : Status) : RunKeeps State.held (stopActs ++ [.respond st]) :=
  runKeeps_held _ (by cases st <;> decide)

theorem runKeeps_held_txbyteActs (v : Byte) : RunKeeps State.held (txbyteActs v) :=
  runKeeps_held (.setShr v :: sendShrActs) (List.forall_mem_cons.mpr ⟨rfl, by decide⟩)

theorem runKeeps_held_sendActs (v : Byte) : RunKeeps State.held (sendActs v) := by
  rw [sendActs, List.append_assoc]
  exact (runKeeps_held_txbyteActs v).append (runKeeps_held _ (by decide))

theorem runKeeps_held_addressActs (a : Addr7) (r : Byte) : RunKeeps State.held (addressActs a r) :=
  ((runKeeps_held_startActs.append (runKeeps_held_sendActs _)).append (runKeeps_held _ (by decide))).append
    (runKeeps_held_sendActs r)

theorem runKeeps_held_probeBody (a : Addr7) : RunKeeps State.held (probeBody a) := by
  simp only [probeBody, List.append_assoc]
  exact runKeeps_held_startActs.append ((runKeeps_held_txbyteActs _).append (runKeeps_held _ (by decide)))

/-! ## WRITE -/

/-- A turn of WRITE's loop moves `IDX` and nothing else of what is held (R86). -/
theorem runKeeps_stored_writeByteActs : RunKeeps State.stored writeByteActs := by
  have hsplit : writeByteActs = (Act.load :: sendShrActs ++ wackActs ++ [Act.abortIfNack]) ++ [Act.nextIdx] := by
    simp [writeByteActs]
  rw [hsplit]
  exact (runKeeps_held _ (by decide)).stored.append fun _ => rfl

theorem runKeeps_stored_writeLoop (k : Nat) : RunKeeps State.stored (writeLoop k) := by
  induction k with
  | zero => exact fun _ => rfl
  | succ k ih => exact runKeeps_stored_writeByteActs.append ih

theorem runKeeps_stored_writeBody (a : Addr7) (r : Byte) (n : Nat) : RunKeeps State.stored (writeBody a r n) := by
  simp only [writeBody, List.append_assoc]
  exact (runKeeps_held_addressActs a r).stored.append
    (RunKeeps.append (l := [.clearIdx]) (fun _ => rfl)
      ((runKeeps_stored_writeLoop n).append (runKeeps_held_stop_respond .ok).stored))

/-! ## READ -/

/-- What READ's turn does before its store: the phase, and RXBYTE (R89). -/
def receiveActs (n i : Nat) : List Act :=
  (if i = 0 then [.setPhase .reading] else []) ++ rxbyteActs (ackOperand i n)

theorem receiveActs_frame (n i : Nat) : ∀ a ∈ receiveActs n i, a.writesHeld = false ∧ a ≠ .abortIfNack := by
  unfold receiveActs
  generalize ackOperand i n = b
  split <;> cases b <;> decide

theorem runKeeps_held_receiveActs (n i : Nat) : RunKeeps State.held (receiveActs n i) :=
  runKeeps_held _ fun a ha => (receiveActs_frame n i a ha).1

/-- READ's turn writes the byte of RXBUF at `IDX` and moves `IDX` on (R32, R89). -/
theorem run_readByteActs_stores (n i : Nat) (s : State) (as : List Act) :
    ∃ u, run (readByteActs n i ++ as) s = run as u ∧ u.idx = s.idx + 1#12 ∧
      ∃ v, u.rxbuf = s.rxbuf.set (bufferAddress s.idx) v := by
  have hstraight : Straight (receiveActs n i) := fun a ha => (receiveActs_frame n i a ha).2
  have hidx : (run (receiveActs n i) s).idx = s.idx := (runKeeps_held_receiveActs n i).idx s
  have hrx : (run (receiveActs n i) s).rxbuf = s.rxbuf := (runKeeps_held_receiveActs n i).stored.rxbuf s
  refine ⟨Act.nextIdx.apply (Act.store.apply (run (receiveActs n i) s)), ?_, congrArg (· + 1#12) hidx,
    (run (receiveActs n i) s).shr, ?_⟩
  · rw [readByteActs, ← receiveActs, List.append_assoc, run_append_of_straight _ _ _ hstraight]
    rfl
  · rw [← hidx, ← hrx]
    rfl

/-- READ's loop of `k` bytes writes RXBUF at `k` indices from `IDX` on. -/
theorem run_readLoop_rxbuf_get (n k i x : Nat) (s : State)
    (h : ∀ j < k, bufferAddress (s.idx + BitVec.ofNat 12 j) ≠ x) :
    (run (readLoop n i k) s).rxbuf.get x = s.rxbuf.get x := by
  induction k generalizing i s with
  | zero => rfl
  | succ k ih =>
    obtain ⟨u, hrun, hidx, v, hrx⟩ := run_readByteActs_stores n i s (readLoop n (i + 1) k)
    have hfirst : x ≠ bufferAddress s.idx := by simpa using (h 0 (by omega)).symm
    have hrest : ∀ j < k, bufferAddress (u.idx + BitVec.ofNat 12 j) ≠ x := by
      intro j hj
      have := h (j + 1) (by omega)
      rwa [Nat.add_comm, BitVec.ofNat_add, ← BitVec.add_assoc, ← hidx] at this
    rw [readLoop, hrun, ih (i + 1) u hrest, hrx, memory_get_set_other _ _ _ _ hfirst]

/-- READ writes RXBUF at its first `n` indices at most. -/
theorem runKeeps_rxbuf_readBody (a : Addr7) (r : Byte) (n x : Nat)
    (h : ∀ j < n, bufferAddress (BitVec.ofNat 12 j) ≠ x) :
    RunKeeps (fun s => s.rxbuf.get x) (readBody a r n) := by
  have hfront : RunKeeps State.held (addressActs a r ++ (startActs ++ sendActs (addressByte a true))) :=
    (runKeeps_held_addressActs a r).append (runKeeps_held_startActs.append (runKeeps_held_sendActs _))
  have hloop : RunKeeps (fun s => s.rxbuf.get x) ([Act.setPhase .addressed, Act.clearIdx] ++ readLoop n 0 n) := by
    intro s
    rw [List.cons_append, List.singleton_append, run_cons _ _ _ (by simp), run_cons _ _ _ (by simp)]
    exact run_readLoop_rxbuf_get n n 0 x _ fun j hj => by simpa [Act.apply] using h j hj
  have hsplit : readBody a r n =
      (addressActs a r ++ (startActs ++ sendActs (addressByte a true))) ++
        (([Act.setPhase .addressed, Act.clearIdx] ++ readLoop n 0 n) ++ (stopActs ++ [Act.respond .ok])) := by
    simp only [readBody, List.append_assoc]
  rw [hsplit]
  exact (hfront.stored.rxbuf.comp (Memory.get · x)).append
    (hloop.append ((runKeeps_held_stop_respond .ok).stored.rxbuf.comp (Memory.get · x)))

theorem runKeeps_setup_readLoop (n k i : Nat) : RunKeeps State.setup (readLoop n i k) := by
  induction k generalizing i with
  | zero => exact fun _ => rfl
  | succ k ih =>
    exact ((runKeeps_held_receiveActs n i).stored.setup.append (r := [.store, .nextIdx]) fun _ => rfl).append
      (ih (i + 1))

theorem runKeeps_setup_readBody (a : Addr7) (r : Byte) (n : Nat) : RunKeeps State.setup (readBody a r n) := by
  simp only [readBody, List.append_assoc]
  exact (runKeeps_held_addressActs a r).stored.setup.append
    (runKeeps_held_startActs.stored.setup.append
      ((runKeeps_held_sendActs _).stored.setup.append
        (RunKeeps.append (l := [.setPhase .addressed, .clearIdx]) (fun _ => rfl)
          ((runKeeps_setup_readLoop n n 0).append (runKeeps_held_stop_respond .ok).stored.setup))))

/-! ## The bodies of the commands -/

/-- INIT (R85). -/
theorem run_initBody (s : State) :
    run initBody s = { s with
      sclOut := true, sdaOut := true, sclMode := .openDrainOutput, sdaMode := .openDrainOutput, inited := true,
      phase := .idle, status := .ok, busy := false, upc := s.upc + 5,
      trace := s.trace ++ [.cfg .scl, .cfg .sda, .w .scl .high, .w .sda .high, .rsp .ok] } := by
  simp [initBody, run, Act.apply, State.configurePin, State.setLatch, State.respond, State.emit, Level.bit]

/-- Only INIT writes the pin modes and `INITED` (R17, R85). -/
theorem runKeeps_setup_bodyOf (s : State) (i : Instr) (hi : i ≠ .init) : RunKeeps State.setup (s.bodyOf i) := by
  cases i
  case init => exact absurd rfl hi
  case write a r n => exact runKeeps_bodyOrNoInit s (runKeeps_stored_writeBody a r _).setup fun _ => rfl
  case read a r n => exact runKeeps_bodyOrNoInit s (runKeeps_setup_readBody a r _) fun _ => rfl
  case probe a => exact runKeeps_bodyOrNoInit s (runKeeps_held_probeBody a).stored.setup fun _ => rfl
  all_goals exact fun _ => rfl

/-- Only READ writes RXBUF (R32). -/
theorem runKeeps_rxbuf_bodyOf (s : State) (i : Instr) (hi : ∀ a r n, i ≠ .read a r n) :
    RunKeeps State.rxbuf (s.bodyOf i) := by
  cases i
  case init => exact fun t => by rw [State.bodyOf, run_initBody]
  case write a r n => exact runKeeps_bodyOrNoInit s (runKeeps_stored_writeBody a r _).rxbuf fun _ => rfl
  case read a r n => exact absurd rfl (hi a r n)
  case probe a => exact runKeeps_bodyOrNoInit s (runKeeps_held_probeBody a).stored.rxbuf fun _ => rfl
  all_goals exact fun _ => rfl

theorem runKeeps_rxbuf_bodyOf_read (s : State) (a : Addr7) (r : Byte) (n x : Nat)
    (h : ∀ j < n, bufferAddress (BitVec.ofNat 12 j) ≠ x) :
    RunKeeps (fun s => s.rxbuf.get x) (s.bodyOf (.read a r n)) := by
  have hlen : (BitVec.ofNat 12 n).toNat ≤ n := by
    rw [BitVec.toNat_ofNat]
    exact Nat.mod_le _ _
  exact runKeeps_bodyOrNoInit s
    (runKeeps_rxbuf_readBody a r _ x fun j hj => h j (Nat.lt_of_lt_of_le hj hlen)) fun _ => rfl

/-! ## The statements -/

/-- Settles O55: such a configuration is not admitted, which a step tests before anything else. -/
theorem onePinForBothLinesIsRefused : Obligations.OnePinForBothLinesIsRefused := by
  intro s hpin
  have hcfg : s.cfg.ok = false := by simp [Config.ok, hpin]
  simp [step, hcfg]

/-- Settles O50: acceptance settles the command's body, and a settled position reaches the end of its run in as many
steps as it has events. -/
theorem eventPaceRunsTheWholeCommand : Obligations.EventPaceRunsTheWholeCommand := by
  intro s w rest i htake hpace hdec hc
  have hstep := (step_of_taking s w rest htake).trans (takeWord_eq_acceptInstr w i _ hdec hpace)
  obtain ⟨hcfg, hrst, -, -⟩ := htake
  obtain ⟨t, haccept, hzero, k, hupc, hrun⟩ :=
    acceptInstr_finishesByEvents i hc { s with inbox := rest } ⟨hcfg, hrst, hpace⟩
  refine ⟨t.finish, exec_of_acceptInstr i hc _ t haccept, ?_⟩
  rw [hupc, hzero, Nat.zero_add, core_run_succ k s t (hstep.trans haccept), hrun]

/-- Settles O32: a command is the run of its body, and each body keeps what its actions and the abort keep. -/
theorem commandFrame : Obligations.CommandFrame := by
  intro s t i hc _ _ h
  obtain ⟨op, a, r, n, hrun⟩ := exec_eq_run_bodyOf i hc s
  obtain rfl : run (s.bodyOf i) (s.begun op a r n) = t := Host.Outcome.next.inj (hrun.symm.trans h)
  obtain ⟨hinbox, -, -, -, -, hcfg, hrst, hpace⟩ := run_sameOutside (s.bodyOf i) (s.begun op a r n)
  refine ⟨hcfg, hinbox, hrst, hpace, fun hi => ?_, ?_, ?_, fun x => ?_, fun hi x => ?_, ?_⟩
  · have hsetup := runKeeps_setup_bodyOf s i hi (s.begun op a r n)
    simpa [State.setup, State.begun] using hsetup
  · rintro rfl
    rw [State.bodyOf, run_initBody]
    exact ⟨rfl, rfl, rfl, rfl, rfl, rfl, rfl⟩
  · rintro a' rfl
    exact runKeeps_bodyOrNoInit s (runKeeps_held_probeBody a').idx (fun _ => rfl) (s.begun op a r n)
  · exact congrArg (Memory.get · x) (runKeeps_txbuf (s.bodyOf i) (s.begun op a r n))
  · exact congrArg (Memory.get · x) (runKeeps_rxbuf_bodyOf s i hi (s.begun op a r n))
  · rintro a' r' n' rfl x hx
    exact runKeeps_rxbuf_bodyOf_read s a' r' n' x hx (s.begun op a r n)

end Sys2Proof.Machine
end

section
/-! SUPPORT. Proofs of the statements of 10_state.md: what every step keeps, the lines and `PHASE`, the event count,
and the registers no command reads before it writes them. -/

namespace Sys2Proof.Machine

/-! ## Micro-operations run by themselves -/

/-- The actions of a micro-operation; a command has none of its own here. -/
def uopActs : Instr → List Act
  | .start => startActs
  | .stop => stopActs
  | .txbit b => txbitActs b
  | .rxbit => rxbitActs
  | .txbyte v => txbyteActs v
  | .rxbyte a => rxbyteActs a
  | .wack => wackActs
  | .init | .write _ _ _ | .read _ _ _ | .probe _ => []

theorem runUopClockLow_next {acts : List Act} {s t : State} (h : runUopClockLow acts s = .next t) :
    s.sclOut = false ∧ t = run acts s := by
  unfold runUopClockLow at h
  split at h
  case isTrue => cases h
  case isFalse hlow => exact ⟨by simpa using hlow, (Host.Outcome.next.inj h).symm⟩

/-- A micro-operation that completes has run its actions; all but START find the clock LOW (R131). -/
theorem exec_uop_next (i : Instr) (hc : i.isCommand = false) {s t : State} (h : exec i s = .next t) :
    t = run (uopActs i) s ∧ (i ≠ .start → s.sclOut = false) := by
  cases i
  case start => exact ⟨(Host.Outcome.next.inj h).symm, fun hne => absurd rfl hne⟩
  case stop | txbit | rxbit | txbyte | rxbyte | wack =>
    obtain ⟨hlow, hrun⟩ := runUopClockLow_next h
    exact ⟨hrun, fun _ => hlow⟩
  case init | write | read | probe => cases hc

/-- A micro-operation neither responds nor tests for an abort. -/
theorem uopActs_plain (i : Instr) : ∀ a ∈ uopActs i, a.isResponse = false ∧ a ≠ .abortIfNack := by
  cases i
  case txbit b => cases b <;> decide
  case rxbyte a => cases a <;> decide
  case txbyte v => exact List.forall_mem_cons.mpr ⟨⟨rfl, by simp⟩, by decide⟩
  case start | stop | rxbit | wack => decide
  case init | write | read | probe => exact fun _ h => by simp [uopActs] at h

/-! ## What a step can do -/

/-- A step that gives a next state has reset the machine, gone on with the running command, waited, or taken the word
first in line (R107(e), R115, R117). -/
theorem step_cases {s t : State} (h : step s = .next t) :
    (s.rstFor ≠ 0 ∧ t = s.applyReset) ∨
    (s.rstFor = 0 ∧ s.busy = true ∧ t = advance s) ∨
    (s.rstFor = 0 ∧ s.busy = false ∧ s.inbox = [] ∧ t = s) ∨
    ∃ w rest, Taking s w rest ∧ takeWord w { s with inbox := rest } = .next t := by
  unfold step at h
  split at h
  case isFalse => cases h
  case isTrue hcfg =>
  unfold stepAdmitted at h
  split at h
  case isTrue hrst => exact .inl ⟨hrst, (Host.Outcome.next.inj h).symm⟩
  case isFalse hrst =>
  have hrst : s.rstFor = 0 := not_not.mp hrst
  split at h
  case isTrue hb =>
    unfold stepBusy at h
    split at h
    · cases h
    · exact .inr (.inl ⟨hrst, hb, (Host.Outcome.next.inj h).symm⟩)
  case isFalse hb =>
    have hready : s.busy = false := Bool.eq_false_iff.mpr hb
    unfold stepReady at h
    split at h
    · exact .inr (.inr (.inl ⟨hrst, hready, ‹_›, (Host.Outcome.next.inj h).symm⟩))
    · exact .inr (.inr (.inr ⟨_, _, ⟨hcfg, hrst, hready, ‹_›⟩, h⟩))

/-- What a command word gives the sequencer to do: the body of its command, or the answer ILLEGAL. -/
def CommandPosition (s : State) (l : List Act) : Prop :=
  l = [.respond .illegal] ∨ ∃ i : Instr, i.isCommand = true ∧ l = s.bodyOf i

/-- A step that takes an instruction accepts a command, settled or run by the pace, or runs a micro-operation. -/
theorem takeInstr_cases {i : Instr} {s t : State} (h : takeInstr i s = .next t) :
    (i.isCommand = true ∧ ∃ op a r n,
      t = settle (s.bodyOf i) (s.begun op a r n) ∨ t = run (s.bodyOf i) (s.begun op a r n)) ∨
    (i.isCommand = false ∧ exec i s = .next t) := by
  cases hc : i.isCommand
  case true =>
    refine .inl ⟨rfl, ?_⟩
    cases hpace : s.pace <;> simp only [takeInstr, hpace] at h
    case whole =>
      obtain ⟨op, a, r, n, hrun⟩ := exec_eq_run_bodyOf i hc s
      exact ⟨op, a, r, n, .inr (Host.Outcome.next.inj (h.symm.trans hrun))⟩
    case event =>
      obtain ⟨op, a, r, n, haccept⟩ := acceptInstr_eq_settle_bodyOf i hc s
      exact ⟨op, a, r, n, .inl (Host.Outcome.next.inj (h.symm.trans haccept))⟩
  case false =>
    have hsame : acceptInstr i s = exec i s := by
      cases i <;> simp only [Instr.isCommand, Bool.true_eq_false] at hc <;> rfl
    refine .inr ⟨rfl, ?_⟩
    cases hpace : s.pace <;> simpa only [takeInstr, hpace, hsame] using h

/-- A step that takes a word begins a command position, settled or run by the pace, or runs a micro-operation. -/
theorem takeWord_cases {w : PortWord} {s t : State} (h : takeWord w s = .next t) :
    (∃ l op a r n, CommandPosition s l ∧ (t = settle l (s.begun op a r n) ∨ t = run l (s.begun op a r n))) ∨
    (∃ i, decode w = .ok i ∧ i.isCommand = false ∧ exec i s = .next t) := by
  cases hdec : decode w <;> simp only [takeWord, hdec] at h
  case ok i =>
    rcases takeInstr_cases h with ⟨hc, op, a, r, n, ht⟩ | ⟨hc, hexec⟩
    · exact .inl ⟨_, op, a, r, n, .inr ⟨i, hc, rfl⟩, ht⟩
    · exact .inr ⟨i, rfl, hc, hexec⟩
  case rejected e =>
    refine .inl ⟨[.respond .illegal], s.op, s.addr7, s.reg8, s.len, .inl rfl, ?_⟩
    unfold takeBadWord at h
    split at h
    · exact .inr (Host.Outcome.next.inj h).symm
    · exact .inl (Host.Outcome.next.inj h).symm
    · cases h

theorem CommandPosition.endsInResponse {s : State} {l : List Act} (h : CommandPosition s l) :
    endsInResponse l = true := by
  rcases h with rfl | ⟨i, hc, rfl⟩
  · rfl
  · exact endsInResponse_bodyOf i hc s

/-- A command word names a command. -/
theorem isCommand_of_decode_cmd {c : BitVec 32} {i : Instr} (h : decode (.cmd c) = .ok i) : i.isCommand = true := by
  simp only [decode, decodeCmd] at h
  split_ifs at h <;> cases h <;> rfl

/-! ## The sequencer and buffer invariant -/

theorem run_todo_eq (l : List Act) (s : State) : (run l s).todo = s.todo := by
  have h := congrArg State.todo (run_todo l s s.todo)
  exact h

/-- A list without responses and abort tests leaves `BUSY` alone. -/
theorem run_busy_of_plain (l : List Act) (s : State) (h : ∀ a ∈ l, a.isResponse = false ∧ a ≠ .abortIfNack) :
    (run l s).busy = s.busy := by
  induction l generalizing s with
  | nil => rfl
  | cons a l ih =>
    obtain ⟨⟨hr, ha⟩, hl⟩ := List.forall_mem_cons.mp h
    rw [run_cons _ _ _ ha, ih _ hl, apply_busy a s hr]

theorem State.Sound.recorded {s : State} (h : s.Sound) : Recorded s := ⟨h.txbuf, h.rxbuf, h.upc⟩

/-- A state with `BUSY` = 0 and nothing left to do. -/
theorem sound_of_done {s : State} (h : Recorded s) (hb : s.busy = false) (ht : s.todo = []) : s.Sound where
  txbuf := h.txbuf
  rxbuf := h.rxbuf
  upc := h.upc
  running hbusy := by simp [hb] at hbusy
  next hbusy := by simp [hb] at hbusy
  ready _ := ht

theorem sound_settle (l : List Act) (s : State) (h : Recorded s) (hb : s.busy = true)
    (hl : endsInResponse l = true) : (settle l s).Sound := by
  obtain ⟨hbusy, htrace, hupc, htx, hrx⟩ := settle_sameEmitted l s
  obtain ⟨hnext, hends⟩ := settle_endsInResponse l s hl
  exact {
    txbuf := htx ▸ h.txbuf
    rxbuf := hrx ▸ h.rxbuf
    upc := by rw [hupc, htrace, h.upc]
    running := fun _ => hends
    next := fun _ => hnext
    ready := fun hready => by simp [hbusy, hb] at hready }

theorem sound_run (l : List Act) (s : State) (h : Recorded s) (ht : s.todo = []) (hl : endsInResponse l = true) :
    (run l s).Sound :=
  sound_of_done (run_recorded l s h) (run_endsInResponse l s hl) ((run_todo_eq l s).trans ht)

/-- The event a position stands at, and what follows it. -/
theorem sound_tick (s : State) (h : s.Sound) (hb : s.busy = true) : s.tick.Sound := by
  obtain ⟨a, as, htodo, he⟩ := h.next hb
  have hends := h.running hb
  have hrec := apply_recorded a s h.recorded
  rw [tick_of_event s a as htodo he]
  rw [htodo, endsInResponse] at hends
  cases hr : a.isResponse <;> simp only [hr, if_true, Bool.false_eq_true, if_false] at hends
  case true =>
    obtain rfl : as = [] := by simpa using hends
    exact sound_of_done ⟨hrec.txbuf, hrec.rxbuf, hrec.upc⟩ (apply_response_busy a s hr) rfl
  case false => exact sound_settle as _ hrec ((apply_busy a s hr).trans hb) hends

theorem sound_advance (s : State) (h : s.Sound) (hb : s.busy = true) : (advance s).Sound := by
  unfold advance
  split
  · exact sound_run _ _ ⟨h.txbuf, h.rxbuf, h.upc⟩ rfl (h.running hb)
  · exact sound_tick s h hb

/-- Settles O59: a step resets, goes on with the running command, waits, begins a command position, or runs a
micro-operation, and each keeps the invariant. -/
theorem stepKeepsSound : Obligations.StepKeepsSound := by
  intro s t hs h
  rcases step_cases h with ⟨-, rfl⟩ | ⟨-, hb, rfl⟩ | ⟨-, -, -, rfl⟩ | ⟨w, rest, ⟨-, -, hb, -⟩, htake⟩
  · exact sound_of_done ⟨hs.txbuf, hs.rxbuf, rfl⟩ rfl rfl
  · exact sound_advance s hs hb
  · exact hs
  · rcases takeWord_cases htake with ⟨l, op, a, r, n, hl, rfl | rfl⟩ | ⟨i, -, hc, hexec⟩
    · exact sound_settle l _ ⟨hs.txbuf, hs.rxbuf, rfl⟩ rfl hl.endsInResponse
    · exact sound_run l _ ⟨hs.txbuf, hs.rxbuf, rfl⟩ rfl hl.endsInResponse
    · obtain ⟨rfl, -⟩ := exec_uop_next i hc hexec
      exact sound_of_done (run_recorded _ _ ⟨hs.txbuf, hs.rxbuf, hs.upc⟩)
        ((run_busy_of_plain _ _ (uopActs_plain i)).trans hb) ((run_todo_eq _ _).trans (hs.ready hb))

/-! ## The idle invariant -/

/-- Both lines released and no transaction in progress (R23(a), (e)). -/
def State.Quiet (s : State) : Prop := s.idle = true ∧ s.phase.noTransaction = true

theorem quiet_abort (s : State) : (applyAll abortActs s).Quiet := by
  rw [applyAll_abortActs]
  exact ⟨rfl, rfl⟩

/-- Running the list, to its end or to an abort, ends quiet from every state. -/
def EndsQuiet (l : List Act) : Prop := ∀ s, (run l s).Quiet

theorem EndsQuiet.append {r : List Act} (h : EndsQuiet r) (l : List Act) : EndsQuiet (l ++ r) := by
  induction l with
  | nil => exact h
  | cons a l ih =>
    intro s
    rw [List.cons_append, run]
    split
    · exact quiet_abort s
    · exact ih _

theorem endsQuiet_stop_response {a : Act} (h : a.isResponse = true) : EndsQuiet (stopActs ++ [a]) := by
  intro s
  rw [run_stopActs]
  cases a <;> simp only [Act.isResponse, Bool.false_eq_true] at h <;> exact ⟨rfl, rfl⟩

theorem endsQuiet_writeBody (a : Addr7) (r : Byte) (n : Nat) : EndsQuiet (writeBody a r n) := by
  rw [writeBody, List.append_assoc]
  exact (endsQuiet_stop_response rfl).append _

theorem endsQuiet_readBody (a : Addr7) (r : Byte) (n : Nat) : EndsQuiet (readBody a r n) := by
  rw [readBody, List.append_assoc]
  exact (endsQuiet_stop_response rfl).append _

theorem endsQuiet_probeBody (a : Addr7) : EndsQuiet (probeBody a) := by
  rw [probeBody, List.append_assoc]
  exact (endsQuiet_stop_response rfl).append _

theorem run_bodyOrNoInit_quiet {body : List Act} (h : EndsQuiet body) (s t : State) (ht : t.Quiet) :
    (run (bodyOrNoInit s body) t).Quiet := by
  unfold bodyOrNoInit
  split
  · exact h t
  · exact ht

/-- A command run from a quiet state ends quiet. -/
theorem run_bodyOf_quiet (i : Instr) (hc : i.isCommand = true) (s t : State) (ht : t.Quiet) :
    (run (s.bodyOf i) t).Quiet := by
  cases i <;> simp only [Instr.isCommand, Bool.false_eq_true] at hc
  case init =>
    rw [State.bodyOf, run_initBody]
    exact ⟨rfl, rfl⟩
  case write a r n => exact run_bodyOrNoInit_quiet (endsQuiet_writeBody a r _) s t ht
  case read a r n => exact run_bodyOrNoInit_quiet (endsQuiet_readBody a r _) s t ht
  case probe a => exact run_bodyOrNoInit_quiet (endsQuiet_probeBody a) s t ht

theorem CommandPosition.run_quiet {s : State} {l : List Act} (h : CommandPosition s l) (t : State) (ht : t.Quiet) :
    (run l t).Quiet := by
  rcases h with rfl | ⟨i, hc, rfl⟩
  · exact ht
  · exact run_bodyOf_quiet i hc s t ht

theorem finish_of_done {s : State} (h : s.todo = []) : s.finish = s := by
  rw [State.finish, h, run_nil, ← h]

theorem finish_advance (s : State) : (advance s).finish = s.finish := by
  unfold advance
  split
  · exact finish_of_done (run_todo_eq s.todo { s with todo := [] })
  · exact finish_tick s

/-- The idle invariant is about the end of the run alone: with `BUSY` = 0 that is the state itself. -/
theorem busSound_iff (s : State) :
    s.BusSound ↔ s.Sound ∧ (∀ w ∈ s.inbox, ∃ c, w = .cmd c) ∧ s.finish.Quiet := by
  constructor
  · intro h
    refine ⟨h.toSound, h.commands, ?_⟩
    cases hb : s.busy
    case false => rw [finish_of_done (h.ready hb)]; exact ⟨h.idle hb, h.phase hb⟩
    case true => exact ⟨h.endsIdle hb, h.endsPhase hb⟩
  · rintro ⟨hs, hcommands, hidle, hphase⟩
    have hdone (hb : s.busy = false) : s.finish = s := finish_of_done (hs.ready hb)
    exact { toSound := hs, commands := hcommands, idle := fun hb => hdone hb ▸ hidle,
            phase := fun hb => hdone hb ▸ hphase, endsIdle := fun _ => hidle, endsPhase := fun _ => hphase }

/-- Settles O60: the step of a running command leaves the end of its run as it was, and a command begun from a quiet
state ends quiet. -/
theorem stepKeepsBusSound : Obligations.StepKeepsBusSound := by
  intro s t hbus h
  obtain ⟨hs, hcommands, hquiet⟩ := (busSound_iff s).mp hbus
  refine (busSound_iff t).mpr ⟨stepKeepsSound s t hs h, ?_⟩
  rcases step_cases h with ⟨-, rfl⟩ | ⟨-, -, rfl⟩ | ⟨-, -, -, rfl⟩ | ⟨w, rest, ⟨-, -, hb, hinbox⟩, htake⟩
  · exact ⟨hcommands, rfl, rfl⟩
  · obtain ⟨hsame, -⟩ := advance_sameOutside s
    exact ⟨hsame ▸ hcommands, finish_advance s ▸ hquiet⟩
  · exact ⟨hcommands, hquiet⟩
  · rw [hinbox, List.forall_mem_cons] at hcommands
    obtain ⟨⟨c, rfl⟩, hrest⟩ := hcommands
    rcases takeWord_cases htake with ⟨l, op, a, r, n, hl, ht⟩ | ⟨i, hdec, hc, -⟩
    · have hend := hl.run_quiet (State.begun { s with inbox := rest } op a r n) ⟨hbus.idle hb, hbus.phase hb⟩
      rcases ht with rfl | rfl
      · obtain ⟨hsame, -⟩ := settle_sameOutside l (State.begun { s with inbox := rest } op a r n)
        exact ⟨hsame ▸ hrest, finish_settle l _ ▸ hend⟩
      · obtain ⟨hsame, -⟩ := run_sameOutside l (State.begun { s with inbox := rest } op a r n)
        have hdone := finish_of_done (run_todo_eq l (State.begun { s with inbox := rest } op a r n))
        exact ⟨hsame ▸ hrest, hdone.symm ▸ hend⟩
    · simp [isCommand_of_decode_cmd hdec] at hc

/-- Settles O58: no command runs, the lines are released, the buffers list nothing. -/
theorem resetIsBusSound : Obligations.ResetIsBusSound :=
  (busSound_iff State.reset).mpr
    ⟨sound_of_done ⟨by decide, by decide, rfl⟩ rfl rfl, by simp [State.reset], rfl, rfl⟩

/-- Settles O31: a command is the run of its body, which ends quiet from a quiet state and in a response. -/
theorem commandsLeaveTheBusIdle : Obligations.CommandsLeaveTheBusIdle := by
  intro s i hc _ _ hidle hphase
  obtain ⟨op, a, r, n, hrun⟩ := exec_eq_run_bodyOf i hc s
  obtain ⟨hidle', hphase'⟩ := run_bodyOf_quiet i hc s (s.begun op a r n) ⟨hidle, hphase⟩
  exact ⟨_, hrun, hidle', hphase', run_endsInResponse _ _ (endsInResponse_bodyOf i hc s)⟩

/-! ## Single events and micro-operations -/

/-- Settles O57: each is a field of the reset state. -/
theorem resetValues : Obligations.ResetValues := ⟨rfl, rfl, rfl, rfl, rfl, rfl, rfl⟩

theorem bit_eq_decide_high (l : Level) : l.bit = decide (l = .high) := by cases l <;> rfl

/-- Settles O9: the write emits its event and sets the latch of its pin. -/
theorem pinWriteSetsItsLatch : Obligations.PinWriteSetsItsLatch := by
  intro s l
  simp only [Act.apply, State.emit, State.setLatch, bit_eq_decide_high, and_self]

/-- A line is LOW exactly if its latch or another driver pulls it LOW (R24). -/
theorem lineLevel_eq_low_iff (latch : Bool) (l : Level) : lineLevel latch l = .low ↔ latch = false ∨ l = .low := by
  cases latch <;> simp [lineLevel]

/-- Settles O10: the level sampled is the level of the data line. -/
theorem readSamplesTheLine : Obligations.ReadSamplesTheLine := by
  intro s
  refine ⟨lineLevel s.sdaOut (s.answer 0), lineLevel_eq_low_iff _ _, ?_⟩
  simp only [Act.apply, State.sampleSda, State.emit, bit_eq_decide_high, List.drop_one]

/-- Settles O20: the latches are those in which the run of the micro-operation's actions ends. -/
theorem microOperationsLeaveLatches : Obligations.MicroOperationsLeaveLatches := by
  intro s t i hc h
  obtain ⟨hrun, hlow⟩ := exec_uop_next i hc h
  rw [← List.append_nil (uopActs i)] at hrun
  cases i
  case start => rw [uopActs, run_startActs] at hrun; simp [hrun]
  case stop => rw [uopActs, run_stopActs] at hrun; simp [hrun]
  case txbit b => rw [uopActs, run_txbitActs] at hrun; simp [hrun]
  case rxbit => rw [uopActs, run_rxbitActs] at hrun; simp [hrun]
  case txbyte v => rw [uopActs, run_txbyteActs] at hrun; simp [hrun]
  case rxbyte a => rw [uopActs, run_rxbyteActs a s [] (hlow (by simp))] at hrun; simp [hrun]
  case wack => rw [uopActs, run_wackActs] at hrun; simp [hrun]
  case init | write | read | probe => cases hc

/-! ## A running command, step by step -/

/-- In a sound state with `BUSY` = 1 a step goes on with the running command. -/
theorem step_of_sound_busy {s : State} (h : s.Sound) (hc : s.cfg.ok = true) (hr : s.rstFor = 0)
    (hb : s.busy = true) : step s = .next (advance s) := by
  obtain ⟨a, as, htodo, -⟩ := h.next hb
  exact step_of_busy s hc hr hb a as htodo

/-- Settles O48: no action writes the latches of the command or the words presented. -/
theorem busyHoldsOffTheNextCommand : Obligations.BusyHoldsOffTheNextCommand := by
  intro s hs hc hr hb
  obtain ⟨hinbox, hop, haddr, hreg, hlen, -⟩ := advance_sameOutside s
  exact ⟨_, step_of_sound_busy hs hc hr hb, hinbox, hop, haddr, hreg, hlen⟩

theorem advance_of_event {s : State} (h : s.pace = .event) : advance s = s.tick := by
  simp only [advance, h]

/-- Settles O49: the step emits the event the position stands at, and the register writes after it emit none. -/
theorem eachStepEmitsOneEvent : Obligations.EachStepEmitsOneEvent := by
  intro s hs hc hr hb hpace
  obtain ⟨a, as, htodo, he⟩ := hs.next hb
  obtain ⟨e, htrace, hupc⟩ := apply_event a s he
  obtain ⟨-, htrace', hupc', -⟩ := settle_sameEmitted as (a.apply s)
  refine ⟨settle as (a.apply s), e, ?_, htrace'.trans htrace, hupc'.trans hupc⟩
  rw [step_of_busy s hc hr hb a as htodo, advance_of_event hpace, tick_of_event s a as htodo he]

/-! ## Acceptance -/

theorem cmdAddr7_cmdWord (op : BitVec 4) (a : Addr7) (r : Byte) (n : Index) : cmdAddr7 (cmdWord op a r n) = a := by
  apply BitVec.eq_of_getLsbD_eq
  intro i hi
  simp only [cmdAddr7, cmdWord, BitVec.getLsbD_extractLsb', BitVec.getLsbD_append]
  interval_cases i <;> simp

theorem cmdReg8_cmdWord (op : BitVec 4) (a : Addr7) (r : Byte) (n : Index) : cmdReg8 (cmdWord op a r n) = r := by
  apply BitVec.eq_of_getLsbD_eq
  intro i hi
  simp only [cmdReg8, cmdWord, BitVec.getLsbD_extractLsb', BitVec.getLsbD_append]
  interval_cases i <;> simp

theorem cmdLen_cmdWord (op : BitVec 4) (a : Addr7) (r : Byte) (n : Index) : cmdLen (cmdWord op a r n) = n :=
  BitVec.extractLsb'_append_eq_right

/-- A row that fixes the operation is selected by words of its operation only (R56). -/
theorem cmdWord_of_hit {row : Row 32} (hmask : row.mask &&& 0xF8000000#32 = 0xF8000000#32) {op : BitVec 4}
    {a : Addr7} {r : Byte} {n : Index} (h : row.hit (cmdWord op a r n) = true) :
    cmdWord op 0#7 0#8 0#12 = row.pattern &&& 0xF8000000#32 := by
  rw [← Laws.cmdWord_and_opMask op a r n, ← of_decide_eq_true h, BitVec.and_assoc, hmask]

theorem hit_cmdWord_eq_false {row : Row 32} {op : BitVec 4} (a : Addr7) (r : Byte) (n : Index)
    (h : row.mask &&& 0xF8000000#32 = 0xF8000000#32 ∧ cmdWord op 0#7 0#8 0#12 ≠ row.pattern &&& 0xF8000000#32) :
    row.hit (cmdWord op a r n) = false :=
  Bool.eq_false_iff.mpr fun hhit => h.2 (cmdWord_of_hit h.1 hhit)

/-- A command's word decodes to the command (R55, R56, R63). -/
theorem decode_encode_command (i : Instr) (hc : i.isCommand = true) (hwf : i.wellFormed = true) :
    decode (encode i) = .ok i := by
  cases i <;> simp only [Instr.isCommand, Bool.false_eq_true] at hc
  case init => decide
  case write a r n =>
    obtain ⟨w, hw, hhit⟩ := Laws.SelectsItsRow.write a r n
    obtain rfl := Option.some.inj hw
    have hinit : initRow.hit (cmdWord 0x2#4 a r (BitVec.ofNat 12 n)) = false := hit_cmdWord_eq_false _ _ _ (by decide)
    have hn : n < 4096 := by simpa [Instr.wellFormed] using hwf
    simp [decode, encode, decodeCmd, hinit, hhit, cmdAddr7_cmdWord, cmdReg8_cmdWord, cmdLen_cmdWord,
      Nat.mod_eq_of_lt hn]
  case read a r n =>
    obtain ⟨w, hw, hhit⟩ := Laws.SelectsItsRow.read a r n
    obtain rfl := Option.some.inj hw
    have hinit : initRow.hit (cmdWord 0x3#4 a r (BitVec.ofNat 12 n)) = false := hit_cmdWord_eq_false _ _ _ (by decide)
    have hwrite : writeRow.hit (cmdWord 0x3#4 a r (BitVec.ofNat 12 n)) = false :=
      hit_cmdWord_eq_false _ _ _ (by decide)
    have hn : n < 4096 := by simpa [Instr.wellFormed] using hwf
    simp [decode, encode, decodeCmd, hinit, hwrite, hhit, cmdAddr7_cmdWord, cmdReg8_cmdWord, cmdLen_cmdWord,
      Nat.mod_eq_of_lt hn]
  case probe a =>
    obtain ⟨w, hw, hhit⟩ := Laws.SelectsItsRow.probe a
    obtain rfl := Option.some.inj hw
    have hinit : initRow.hit (cmdWord 0x4#4 a 0#8 0#12) = false := hit_cmdWord_eq_false _ _ _ (by decide)
    have hwrite : writeRow.hit (cmdWord 0x4#4 a 0#8 0#12) = false := hit_cmdWord_eq_false _ _ _ (by decide)
    have hread : readRow.hit (cmdWord 0x4#4 a 0#8 0#12) = false := hit_cmdWord_eq_false _ _ _ (by decide)
    simp [decode, encode, decodeCmd, hinit, hwrite, hread, hhit, cmdAddr7_cmdWord]

/-- At the event pace the step that takes a command's word accepts the command. -/
theorem step_of_taking_command {s : State} {i : Instr} {rest : List PortWord} (h : Taking s (encode i) rest)
    (hpace : s.pace = .event) (hc : i.isCommand = true) (hwf : i.wellFormed = true) :
    step s = acceptInstr i { s with inbox := rest } :=
  (step_of_taking s _ rest h).trans (takeWord_eq_acceptInstr _ i _ (decode_encode_command i hc hwf) hpace)

/-- A body that stands at an event, or the answer NOINIT, is settled as it is. -/
theorem settle_bodyOrNoInit (s t : State) {a : Act} (as : List Act) (he : a.isEvent = true) :
    settle (bodyOrNoInit s (a :: as)) t = { t with todo := bodyOrNoInit s (a :: as) } := by
  unfold bodyOrNoInit
  split
  · rw [settle, if_pos he]
  · rfl

/-- Settles O47: every body stands at an event, so acceptance writes the position and no register after it. -/
theorem acceptanceLatchesTheCommand : Obligations.AcceptanceLatchesTheCommand := by
  intro s rest a r n hpace hn
  refine ⟨fun h => ?_, fun h => ?_, fun h => ?_, fun h => ?_⟩
  · have hstep := step_of_taking_command h hpace rfl (decide_eq_true hn)
    exact ⟨_, hstep.trans (congrArg Host.Outcome.next (settle_bodyOrNoInit _ _ _ rfl))⟩
  · have hstep := step_of_taking_command h hpace rfl (decide_eq_true hn)
    exact ⟨_, hstep.trans (congrArg Host.Outcome.next (settle_bodyOrNoInit _ _ _ rfl))⟩
  · have hstep := step_of_taking_command h hpace rfl rfl
    exact ⟨_, hstep.trans (congrArg Host.Outcome.next (settle_bodyOrNoInit _ _ _ rfl))⟩
  · exact ⟨_, step_of_taking_command h hpace rfl rfl⟩

/-! ## How many events a command can emit -/

theorem apply_upc (a : Act) (s : State) : (a.apply s).upc = s.upc + if a.isEvent then 1 else 0 := by
  split
  case isTrue he =>
    obtain ⟨_, -, hupc⟩ := apply_event a s he
    exact hupc
  case isFalse he =>
    obtain ⟨-, -, hupc, -⟩ := apply_sameEmitted a s (Bool.eq_false_iff.mpr he)
    exact hupc

/-- Running the list, to its end or to an abort, emits at most `k` events. -/
def EmitsAtMost (l : List Act) (k : Nat) : Prop := ∀ s, (run l s).upc ≤ s.upc + k

/-- The abort emits seven events, no more than a position that still has its STOP and its response to come. -/
theorem EmitsAtMost.append {r : List Act} {k : Nat} (h : EmitsAtMost r k) (hk : 7 ≤ k) (l : List Act) :
    EmitsAtMost (l ++ r) (l.countP Act.isEvent + k) := by
  induction l with
  | nil => simpa using h
  | cons a l ih =>
    intro s
    rw [List.cons_append, run]
    split
    · rw [applyAll_abortActs]
      show s.upc + 7 ≤ _
      omega
    · have hrest := ih (a.apply s)
      rw [apply_upc] at hrest
      rw [List.countP_cons]
      omega

theorem EmitsAtMost.mono {l : List Act} {j k : Nat} (h : EmitsAtMost l j) (hjk : j ≤ k) : EmitsAtMost l k :=
  fun s => Nat.le_trans (h s) (Nat.add_le_add_left hjk _)

theorem emitsAtMost_stop_response {a : Act} (h : a.isResponse = true) : EmitsAtMost (stopActs ++ [a]) 7 := by
  intro s
  rw [run_stopActs]
  cases a <;> simp only [Act.isResponse, Bool.false_eq_true] at h <;> exact Nat.le_refl _

theorem countP_sendActs (v : Byte) : (sendActs v).countP Act.isEvent = 45 := rfl

theorem countP_addressActs (a : Addr7) (r : Byte) : (addressActs a r).countP Act.isEvent = 96 := by
  simp only [addressActs, List.countP_append, countP_sendActs]
  rfl

theorem countP_readByteActs (n i : Nat) : (readByteActs n i).countP Act.isEvent = 47 := by
  unfold readByteActs
  split <;> rfl

theorem countP_writeLoop (n : Nat) : (writeLoop n).countP Act.isEvent = 46 * n := by
  induction n with
  | zero => rfl
  | succ n ih =>
    have hone : writeByteActs.countP Act.isEvent = 46 := rfl
    rw [writeLoop, List.countP_append, ih, hone]
    omega

theorem countP_readLoop (n k i : Nat) : (readLoop n i k).countP Act.isEvent = 47 * k := by
  induction k generalizing i with
  | zero => rfl
  | succ k ih =>
    rw [readLoop, List.countP_append, ih, countP_readByteActs]
    omega

theorem emitsAtMost_writeBody (a : Addr7) (r : Byte) (n : Nat) : EmitsAtMost (writeBody a r n) (103 + 46 * n) := by
  rw [writeBody, List.append_assoc]
  refine ((emitsAtMost_stop_response rfl).append (Nat.le_refl 7) _).mono ?_
  rw [List.countP_append, List.countP_append, countP_addressActs, countP_writeLoop]
  show 96 + 0 + 46 * n + 7 ≤ _
  omega

theorem emitsAtMost_readBody (a : Addr7) (r : Byte) (n : Nat) : EmitsAtMost (readBody a r n) (154 + 47 * n) := by
  rw [readBody, List.append_assoc]
  refine ((emitsAtMost_stop_response rfl).append (Nat.le_refl 7) _).mono ?_
  rw [List.countP_append, List.countP_append, List.countP_append, List.countP_append, countP_addressActs,
    countP_sendActs,    countP_readLoop]
  show 96 + 6 + 45 + 0 + 47 * n + 7 ≤ _
  omega

theorem emitsAtMost_probeBody (a : Addr7) : EmitsAtMost (probeBody a) 58 := by
  rw [probeBody, List.append_assoc]
  exact (emitsAtMost_stop_response rfl).append (Nat.le_refl 7) _

theorem emitsAtMost_bodyOrNoInit (s : State) {body : List Act} {k : Nat} (h : EmitsAtMost body k) (hk : 1 ≤ k) :
    EmitsAtMost (bodyOrNoInit s body) k := by
  unfold bodyOrNoInit
  split
  · exact h
  · exact EmitsAtMost.mono (fun _ => Nat.le_refl _) hk

/-- The longest command is a READ of 4095 bytes (R138). -/
theorem emitsAtMost_bodyOf (s : State) (i : Instr) : EmitsAtMost (s.bodyOf i) (154 + 47 * 4095) := by
  have hlen (n : Nat) : (BitVec.ofNat 12 n).toNat < 4096 := (BitVec.ofNat 12 n).isLt
  cases i
  case init => exact fun t => by rw [State.bodyOf, run_initBody]; exact Nat.add_le_add_left (by decide) _
  case write a r n =>
    exact (emitsAtMost_bodyOrNoInit s (emitsAtMost_writeBody a r _) (by omega)).mono (by have := hlen n; omega)
  case read a r n =>
    exact (emitsAtMost_bodyOrNoInit s (emitsAtMost_readBody a r _) (by omega)).mono (by have := hlen n; omega)
  case probe a => exact (emitsAtMost_bodyOrNoInit s (emitsAtMost_probeBody a) (by omega)).mono (by omega)
  case start | stop | txbit | rxbit | txbyte | rxbyte | wack => exact fun t => Nat.le_add_right _ _

/-- Settles O38: a command's body ends in a response and emits no more events than the longest. -/
theorem commandsEndWithinTheBound : Obligations.CommandsEndWithinTheBound := by
  intro s i hc _ _
  obtain ⟨op, a, r, n, hrun⟩ := exec_eq_run_bodyOf i hc s
  have hupc := emitsAtMost_bodyOf s i (s.begun op a r n)
  refine ⟨_, hrun, run_endsInResponse _ _ (endsInResponse_bodyOf i hc s), ?_⟩
  simpa [State.begun] using hupc

/-! ## A READ, event by event -/

/-- A command runs at the pace of events. -/
def Running (s : State) : Prop := EventPaced s ∧ s.busy = true

/-- From the position `l`, settled in `s`, `k` steps lead to the position `r`, settled in `t`. -/
def Reaches (k : Nat) (l : List Act) (s : State) (r : List Act) (t : State) : Prop :=
  Host.Core.run Sys2Proof.core k (settle l s) = .next (settle r t)

theorem Reaches.trans {j k : Nat} {l m r : List Act} {s t u : State} (h : Reaches j l s m t) (h' : Reaches k m t r u) :
    Reaches (j + k) l s r u :=
  (core_run_add j k _ _ h).trans h'

/-- A step from a position that stands at an event. -/
theorem step_settle_of_event {a : Act} {s : State} (as : List Act) (hs : Running s) (he : a.isEvent = true) :
    step (settle (a :: as) s) = .next (settle as (a.apply s)) := by
  obtain ⟨⟨hcfg, hrst, hpace⟩, hb⟩ := hs
  have hset : settle (a :: as) s = { s with todo := a :: as } := by rw [settle, if_pos he]
  have htick := tick_of_event { s with todo := a :: as } a as rfl he
  rw [apply_todo, settle_todo] at htick
  have hadvance := (advance_of_event (s := { s with todo := a :: as }) hpace).trans htick
  rw [hset, step_of_busy { s with todo := a :: as } hcfg hrst hb a as rfl, hadvance]

/-- As many steps as a list without responses and abort tests has events lead past it. -/
theorem reaches_of_plain (l r : List Act) (s : State) (hs : Running s)
    (hl : ∀ a ∈ l, a.isResponse = false ∧ a ≠ .abortIfNack) :
    Reaches (l.countP Act.isEvent) (l ++ r) s r (run l s) ∧ Running (run l s) := by
  induction l generalizing s with
  | nil => exact ⟨rfl, hs⟩
  | cons a l ih =>
    obtain ⟨⟨hr, ha⟩, hl⟩ := List.forall_mem_cons.mp hl
    obtain ⟨hp, hb⟩ := hs
    obtain ⟨hreach, hrunning⟩ :=
      ih (a.apply s) ⟨hp.of_sameOutside (apply_sameOutside a s), (apply_busy a s hr).trans hb⟩ hl
    rw [run_cons _ _ _ ha]
    refine ⟨?_, hrunning⟩
    by_cases he : a.isEvent = true
    · rw [List.countP_cons_of_pos he]
      exact (core_run_succ _ _ _ (step_settle_of_event _ ⟨hp, hb⟩ he)).trans hreach
    · have hset : settle (a :: (l ++ r)) s = settle (l ++ r) (a.apply s) := by simp [settle, he, ha]
      rw [List.countP_cons_of_neg he, Reaches, List.cons_append, hset]
      exact hreach

/-- START's six events (R66). -/
theorem startActs_reaches (r : List Act) (s : State) (hs : Running s) :
    ∃ t, Reaches 6 (startActs ++ r) s r t ∧ Running t ∧ t.phase = .started ∧ ∀ j, t.answer j = s.answer j := by
  obtain ⟨hreach, hrunning⟩ := reaches_of_plain startActs r s hs (uopActs_plain .start)
  refine ⟨_, hreach, hrunning, ?_⟩
  rw [← List.append_nil startActs, run_startActs]
  exact ⟨rfl, fun _ => rfl⟩

/-- The 45 events of a transmitted byte that is acknowledged (R78). -/
theorem sendActs_reaches (v : Byte) (r : List Act) (s : State) (hs : Running s) (h : s.answer 0 = .low) :
    ∃ t, Reaches 45 (sendActs v ++ r) s r t ∧ Running t ∧ t.phase = s.phase ∧
      ∀ j, t.answer j = s.answer (1 + j) := by
  have hplain : ∀ a ∈ txbyteActs v ++ wackActs, a.isResponse = false ∧ a ≠ .abortIfNack :=
    List.forall_mem_append.mpr ⟨uopActs_plain (.txbyte v), uopActs_plain .wack⟩
  obtain ⟨hreach, hrunning⟩ := reaches_of_plain _ (.abortIfNack :: r) s hs hplain
  obtain ⟨hphase, hack, hscript, hreads⟩ :
      (run (txbyteActs v ++ wackActs) s).phase = s.phase ∧ (run (txbyteActs v ++ wackActs) s).ackf = true ∧
        (run (txbyteActs v ++ wackActs) s).script = s.script.drop 1 ∧
        (run (txbyteActs v ++ wackActs) s).reads = s.reads + 1 := by
    rw [← List.append_nil wackActs, run_txbyteActs, run_wackActs]
    exact ⟨rfl, by simp [answer_of_env s, h, Level.bit], by simp, rfl⟩
  have hpass : settle (.abortIfNack :: r) (run (txbyteActs v ++ wackActs) s) =
      settle r (run (txbyteActs v ++ wackActs) s) := by
    simp [settle, Act.isEvent, hack, Act.apply]
  refine ⟨_, ?_, hrunning, hphase, fun j => answer_after s _ 1 j hscript hreads⟩
  rw [sendActs, List.append_assoc, Reaches, ← hpass]
  exact hreach

/-- What is left of a READ after its repeated START (R89 steps 5 to 7). -/
def readFromRepeatedStart (a : Addr7) (n : Nat) : List Act :=
  sendActs (addressByte a true) ++
    ([Act.setPhase .addressed, Act.clearIdx] ++ (readLoop n 0 n ++ (stopActs ++ [Act.respond .ok])))

/-- What is left of a READ after its first acknowledgment, but for the two phases (R89 steps 3 to 7). -/
def readFromRegister (a : Addr7) (r : Byte) (n : Nat) : List Act :=
  sendActs r ++ (startActs ++ readFromRepeatedStart a n)

theorem readBody_eq (a : Addr7) (r : Byte) (n : Nat) :
    readBody a r n = startActs ++ (sendActs (addressByte a false) ++
      ([Act.setPhase .addressed, Act.setPhase .writing] ++ readFromRegister a r n)) := by
  simp only [readBody, addressActs, readFromRegister, readFromRepeatedStart, List.append_assoc]

/-- ADDRESSED and WRITING are entered together (log 14). -/
theorem settle_addressed_writing (r : List Act) (s : State) :
    settle ([Act.setPhase .addressed, Act.setPhase .writing] ++ r) s = settle r { s with phase := .writing } := rfl

/-- Settling a transmitted byte writes `SHR` and `BITCNT` only: its first event is still to come. -/
theorem settle_sendActs_phase (v : Byte) (r : List Act) (s : State) : (settle (sendActs v ++ r) s).phase = s.phase :=
  rfl

/-- `PHASE` after the third acknowledgment of a READ (R14, R89). -/
theorem settle_readData_phase (n : Nat) (r : List Act) (s : State) :
    (settle ([Act.setPhase .addressed, Act.clearIdx] ++ (readLoop n 0 n ++ (stopActs ++ r))) s).phase =
      if n = 0 then .addressed else .reading := by
  cases n <;> rfl

/-- Acceptance of a READ places the sequencer at the beginning of its body. -/
theorem acceptInstr_read (a : Addr7) (r : Byte) (n : Nat) (s : State) (hi : s.inited = true) (hn : n < 4096) :
    acceptInstr (.read a r n) s = .next (settle (readBody a r n) (s.begun 0x3#4 a r (BitVec.ofNat 12 n))) := by
  have hlen : (BitVec.ofNat 12 n).toNat = n := by
    rw [BitVec.toNat_ofNat]
    omega
  have hbody : s.bodyOf (.read a r n) = readBody a r n := by rw [State.bodyOf, bodyOrNoInit, if_pos hi, hlen]
  rw [← hbody]
  exact congrArg Host.Outcome.next (settle_todo (s.bodyOf (.read a r n)) _ []).symm

/-- Settles O51: START's events, the two bytes of the address phase, the repeated START and the third byte, each
with the phase it leaves. -/
theorem phaseAlongARead : Obligations.PhaseAlongARead := by
  intro s rest a r n htake hpace hinited hn hacked
  have hstep := step_of_taking_command htake hpace (i := .read a r n) rfl (decide_eq_true hn)
  rw [acceptInstr_read a r n { s with inbox := rest } hinited hn] at hstep
  obtain ⟨hcfg, hrst, -, -⟩ := htake
  obtain ⟨b, hb, hrun0, hphase, hans⟩ : ∃ b, step s = .next (settle (readBody a r n) b) ∧ Running b ∧
      b.phase = s.phase ∧ ∀ j, b.answer j = s.answer j :=
    ⟨_, hstep, ⟨⟨hcfg, hrst, hpace⟩, rfl⟩, rfl, fun _ => rfl⟩
  have hfrom {k : Nat} {q : List Act} {t : State} (h : Reaches k (readBody a r n) b q t) :
      Host.Core.run Sys2Proof.core (1 + k) s = .next (settle q t) :=
    (core_run_add 1 k s _ (core_run_succ 0 s _ hb)).trans h
  rw [readBody_eq] at hfrom
  obtain ⟨t1, hreach1, hrun1, hphase1, hans1⟩ :=
    startActs_reaches (sendActs (addressByte a false) ++
      ([Act.setPhase .addressed, Act.setPhase .writing] ++ readFromRegister a r n)) b hrun0
  obtain ⟨t2, hreach2, hrun2, -, hans2⟩ :=
    sendActs_reaches (addressByte a false)
      ([Act.setPhase .addressed, Act.setPhase .writing] ++ readFromRegister a r n) t1
      hrun1 (by rw [hans1, hans, hacked 0 (by omega)])
  rw [Reaches, settle_addressed_writing] at hreach2
  obtain ⟨t3, hreach3, hrun3, -, hans3⟩ :=
    sendActs_reaches r (startActs ++ readFromRepeatedStart a n) { t2 with phase := .writing } hrun2
      ((hans2 0).trans (by rw [hans1, hans, hacked 1 (by omega)]))
  obtain ⟨t4, hreach4, hrun4, hphase4, hans4⟩ := startActs_reaches (readFromRepeatedStart a n) t3 hrun3
  obtain ⟨t5, hreach5, -, -, -⟩ :=
    sendActs_reaches (addressByte a true)
      ([Act.setPhase .addressed, Act.clearIdx] ++ (readLoop n 0 n ++ (stopActs ++ [Act.respond .ok]))) t4 hrun4
      (by rw [hans4, hans3]; exact (hans2 1).trans (by rw [hans1, hans, hacked 2 (by omega)]))
  have hto2 : Reaches 51 _ b (readFromRegister a r n) { t2 with phase := .writing } := hreach1.trans hreach2
  have hto4 : Reaches 102 _ b (readFromRepeatedStart a n) t4 := (hto2.trans hreach3).trans hreach4
  refine ⟨⟨_, core_run_succ 0 s _ hb, hphase, hrun0.2⟩, ⟨_, hfrom hreach1, ?_⟩, ⟨_, hfrom hto2, ?_⟩,
    ⟨_, hfrom hto4, ?_⟩, ⟨_, hfrom (hto4.trans hreach5), settle_readData_phase n _ t5⟩⟩
  · rw [settle_sendActs_phase, hphase1]
  · rw [readFromRegister, settle_sendActs_phase]
  · rw [readFromRepeatedStart, settle_sendActs_phase, hphase4]

/-! ## The data line while the clock is HIGH -/

/-- Events that begin and end with the clock LOW and write the data line only while it is. -/
def Silent (es : List Event) : Prop := ∀ fs, clockHighWrites false (es ++ fs) = clockHighWrites false fs

theorem Silent.nil : Silent [] := fun _ => rfl

theorem Silent.append {es fs : List Event} (h : Silent es) (k : Silent fs) : Silent (es ++ fs) := by
  intro gs
  rw [List.append_assoc, h, k]

theorem Silent.flatMap {α : Type} (f : α → List Event) (h : ∀ x, Silent (f x)) (l : List α) : Silent (l.flatMap f) := by
  induction l with
  | nil => exact .nil
  | cons x l ih => rw [List.flatMap_cons]; exact (h x).append ih

theorem silent_bitTrace (t : BitVec 16) (b : Bool) : Silent (bitTrace t b) := fun _ => rfl

theorem silent_sampleTrace (t : BitVec 16) (l : Level) : Silent (sampleTrace t l) := fun _ => rfl

theorem silent_byteTrace (t : BitVec 16) (v : Byte) : Silent (byteTrace t v) := .flatMap _ (silent_bitTrace t) _

theorem silent_sendTrace (t : BitVec 16) (v : Byte) (l : Level) : Silent (sendTrace t v l) :=
  (silent_byteTrace t v).append (silent_sampleTrace t l)

theorem silent_receiveTrace (t : BitVec 16) (ls : List Level) (a : Bool) : Silent (receiveTrace t ls a) := by
  have hrelease : Silent [.w .sda .high] := fun _ => rfl
  exact hrelease.append ((Silent.flatMap _ (silent_sampleTrace t) ls).append (silent_bitTrace t _))

theorem clockHighWrites_startTrace (t : BitVec 16) (es : List Event) :
    clockHighWrites false (startTrace t ++ es) = .low :: clockHighWrites false es := rfl

theorem clockHighWrites_stop_respond (t : BitVec 16) (st : Status) :
    clockHighWrites false (stopTrace t ++ [.rsp st]) = [.high] := rfl

/-- A part of a command that, begun with the clock LOW, is silent and ends with the clock LOW, or aborts. -/
def SilentPart (l : List Act) : Prop :=
  ∀ (s : State) (r : List Act), s.sclOut = false → ∃ es, Silent es ∧
    ((∃ u, run (l ++ r) s = run r u ∧ u.sclOut = false ∧ u.trace = s.trace ++ es) ∨
      ∃ t, (run (l ++ r) s).trace = s.trace ++ es ++ (stopTrace t ++ [.rsp .nack]))

theorem SilentPart.append {l m : List Act} (hl : SilentPart l) (hm : SilentPart m) : SilentPart (l ++ m) := by
  intro s r hs
  obtain ⟨es, hes, ⟨u, hu, hclock, htrace⟩ | ⟨t, habort⟩⟩ := hl s (m ++ r) hs
  · obtain ⟨fs, hfs, hrest⟩ := hm u r hclock
    rw [htrace, List.append_assoc] at hrest
    exact ⟨es ++ fs, hes.append hfs, by rwa [List.append_assoc, hu]⟩
  · exact ⟨es, hes, .inr ⟨t, by rwa [List.append_assoc]⟩⟩

/-- A part that does not abort. -/
theorem silentPart_of_run {l : List Act} (f : State → State) (es : State → List Event)
    (hrun : ∀ s r, s.sclOut = false → run (l ++ r) s = run r (f s))
    (hclock : ∀ s, s.sclOut = false → (f s).sclOut = false) (htrace : ∀ s, (f s).trace = s.trace ++ es s)
    (hes : ∀ s, Silent (es s)) : SilentPart l :=
  fun s r hs => ⟨es s, hes s, .inl ⟨f s, hrun s r hs, hclock s hs, htrace s⟩⟩

theorem apply_sclOut_of_not_event (a : Act) (s : State) (h : a.isEvent = false) : (a.apply s).sclOut = s.sclOut := by
  cases a <;> simp only [Act.isEvent, Bool.true_eq_false] at h <;> rfl

/-- Register writes and abort tests between two events. -/
theorem silentPart_registers (l : List Act) (h : ∀ a ∈ l, a.isEvent = false) : SilentPart l := by
  induction l with
  | nil => exact fun s r hs => ⟨[], .nil, .inl ⟨s, rfl, hs, (List.append_nil _).symm⟩⟩
  | cons a l ih =>
    obtain ⟨ha, hl⟩ := List.forall_mem_cons.mp h
    intro s r hs
    obtain ⟨-, htrace, -⟩ := apply_sameEmitted a s ha
    rw [List.cons_append, run]
    split
    · exact ⟨[], .nil, .inr ⟨s.cfg.tHalf, by simp [applyAll_abortActs]⟩⟩
    · rw [← htrace]
      exact ih hl (a.apply s) r ((apply_sclOut_of_not_event a s ha).trans hs)

theorem silentPart_load : SilentPart [Act.load] :=
  silentPart_of_run State.loadByte (fun s => [.ld s.idx (s.txbuf.get (bufferAddress s.idx))])
    (fun s r _ => run_cons _ r s (by simp)) (fun _ hs => hs) (fun _ => rfl) (fun _ _ => rfl)

theorem silentPart_store : SilentPart [Act.store] :=
  silentPart_of_run State.storeByte (fun s => [.st s.idx s.shr])
    (fun s r _ => run_cons _ r s (by simp)) (fun _ hs => hs) (fun _ => rfl) (fun _ _ => rfl)

theorem silentPart_sendShrActs : SilentPart sendShrActs :=
  silentPart_of_run _ _ (fun s r _ => run_sendShrActs s r) (fun _ _ => rfl) (fun _ => rfl)
    (fun _ => silent_byteTrace _ _)

theorem silentPart_txbyteActs (v : Byte) : SilentPart (txbyteActs v) :=
  (silentPart_registers [Act.setShr v] (by simp [Act.isEvent])).append silentPart_sendShrActs

theorem silentPart_wackActs : SilentPart wackActs :=
  silentPart_of_run _ _ (fun s r _ => run_wackActs s r) (fun _ _ => rfl) (fun _ => rfl)
    (fun _ => silent_sampleTrace _ _)

theorem silentPart_rxbyteActs (a : Bool) : SilentPart (rxbyteActs a) :=
  silentPart_of_run _ _ (fun s r hs => run_rxbyteActs a s r hs) (fun _ _ => rfl) (fun _ => rfl)
    (fun _ => silent_receiveTrace _ _ _)

theorem silentPart_sendActs (v : Byte) : SilentPart (sendActs v) :=
  ((silentPart_txbyteActs v).append silentPart_wackActs).append (silentPart_registers _ (by decide))

theorem silentPart_writeLoop (n : Nat) : SilentPart (writeLoop n) := by
  induction n with
  | zero => exact silentPart_registers [] (by simp)
  | succ n ih =>
    exact ((silentPart_load.append (silentPart_sendShrActs.append silentPart_wackActs)).append
      (silentPart_registers [Act.abortIfNack, .nextIdx] (by decide))).append ih

theorem silentPart_readLoop (n k i : Nat) : SilentPart (readLoop n i k) := by
  induction k generalizing i with
  | zero => exact silentPart_registers [] (by simp)
  | succ k ih =>
    have hphase : SilentPart (if i = 0 then [Act.setPhase .reading] else []) :=
      silentPart_registers _ (by split <;> decide)
    exact ((hphase.append (silentPart_rxbyteActs _)).append
      (silentPart_store.append (silentPart_registers [Act.nextIdx] (by decide)))).append (ih (i + 1))

/-- Run from the clock LOW, the list makes these data writes while the clock is HIGH. -/
def ClockLowWrites (l : List Act) (ws : List Level) : Prop :=
  ∀ s : State, s.sclOut = false → ∃ es, (run l s).trace = s.trace ++ es ∧ clockHighWrites false es = ws

/-- A part that may abort, before one whose only write is STOP's: the abort has a STOP of its own. -/
theorem SilentPart.clockLowWrites {l r : List Act} (hl : SilentPart l) (hr : ClockLowWrites r [.high]) :
    ClockLowWrites (l ++ r) [.high] := by
  intro s hs
  obtain ⟨es, hes, ⟨u, hu, hclock, htrace⟩ | ⟨t, habort⟩⟩ := hl s r hs
  · obtain ⟨fs, hrun, hfs⟩ := hr u hclock
    exact ⟨es ++ fs, by rw [hu, hrun, htrace, List.append_assoc], by rw [hes, hfs]⟩
  · exact ⟨_, by rw [habort, List.append_assoc], by rw [hes, clockHighWrites_stop_respond]⟩

theorem clockLowWrites_stop_response {a : Act} (h : a.isResponse = true) :
    ClockLowWrites (stopActs ++ [a]) [.high] := by
  intro s _
  have hresponse (u : State) : ∃ st, (run [a] u).trace = u.trace ++ [.rsp st] := by
    cases a <;> simp only [Act.isResponse, Bool.false_eq_true] at h <;> exact ⟨_, rfl⟩
  rw [run_stopActs]
  obtain ⟨st, htrace⟩ := hresponse { s with
    sclOut := true, sdaOut := true, phase := .stopped,
    trace := s.trace ++ stopTrace s.cfg.tHalf, upc := s.upc + 6 }
  exact ⟨stopTrace s.cfg.tHalf ++ [.rsp st], htrace.trans (List.append_assoc _ _ _),
    clockHighWrites_stop_respond _ st⟩

/-- START, from any latches, makes its one write while the clock is HIGH and leaves the clock LOW (R66). -/
theorem ClockLowWrites.start {r : List Act} {ws : List Level} (h : ClockLowWrites r ws) (s : State) :
    ∃ es, (run (startActs ++ r) s).trace = s.trace ++ es ∧ clockHighWrites false es = .low :: ws := by
  rw [run_startActs]
  obtain ⟨es, hrun, hes⟩ := h { s with
    sclOut := false, sdaOut := false, phase := .started,
    trace := s.trace ++ startTrace s.cfg.tHalf, upc := s.upc + 6 } rfl
  exact ⟨startTrace s.cfg.tHalf ++ es, by rw [hrun, List.append_assoc], by rw [clockHighWrites_startTrace, hes]⟩

theorem writeBody_dataWrites (a : Addr7) (r : Byte) (n : Nat) (s : State) (hs : s.trace = []) :
    clockHighWrites false (run (writeBody a r n) s).trace = [.low, .high] := by
  have hpart : SilentPart (sendActs (addressByte a false) ++ ([Act.setPhase .addressed, Act.setPhase .writing] ++
      (sendActs r ++ ([Act.clearIdx] ++ writeLoop n)))) :=
    (silentPart_sendActs _).append ((silentPart_registers _ (by decide)).append
      ((silentPart_sendActs _).append ((silentPart_registers _ (by decide)).append (silentPart_writeLoop n))))
  obtain ⟨es, hrun, hes⟩ := (hpart.clockLowWrites (clockLowWrites_stop_response (a := .respond .ok) rfl)).start s
  simp only [writeBody, addressActs, List.append_assoc] at hrun ⊢
  rw [hrun, hs, List.nil_append, hes]

theorem probeBody_dataWrites (a : Addr7) (s : State) (hs : s.trace = []) :
    clockHighWrites false (run (probeBody a) s).trace = [.low, .high] := by
  have hpart : SilentPart (txbyteActs (addressByte a false) ++ (wackActs ++ [Act.addressedIfAck])) :=
    (silentPart_txbyteActs _).append (silentPart_wackActs.append (silentPart_registers _ (by decide)))
  obtain ⟨es, hrun, hes⟩ := (hpart.clockLowWrites (clockLowWrites_stop_response (a := .respondAck) rfl)).start s
  simp only [probeBody, List.append_assoc] at hrun ⊢
  rw [hrun, hs, List.nil_append, hes]

theorem readBody_dataWrites (a : Addr7) (r : Byte) (n : Nat) (s : State) (hs : s.trace = []) :
    clockHighWrites false (run (readBody a r n) s).trace =
      if s.answer 0 = .low ∧ s.answer 1 = .low then [.low, .low, .high] else [.low, .high] := by
  have hsplit : readBody a r n = addressActs a r ++ (startActs ++ readFromRepeatedStart a n) := by
    simp only [readBody, readFromRepeatedStart, List.append_assoc]
  have hrest : ClockLowWrites (readFromRepeatedStart a n) [.high] := by
    have hpart : SilentPart (sendActs (addressByte a true) ++
        ([Act.setPhase .addressed, Act.clearIdx] ++ readLoop n 0 n)) :=
      (silentPart_sendActs _).append ((silentPart_registers _ (by decide)).append (silentPart_readLoop n n 0))
    have hwrites := hpart.clockLowWrites (clockLowWrites_stop_response (a := .respond .ok) rfl)
    simpa only [readFromRepeatedStart, List.append_assoc] using hwrites
  rw [hsplit]
  cases h0 : s.answer 0
  case high =>
    rw [run_addressActs_nacked_address _ _ _ _ h0, hs, if_neg (by simp)]
    simp only [List.append_assoc, List.nil_append]
    rw [clockHighWrites_startTrace, silent_sendTrace, clockHighWrites_stop_respond]
  case low =>
    cases h1 : s.answer 1
    case high =>
      rw [run_addressActs_nacked_register _ _ _ _ h0 h1, hs, if_neg (by simp)]
      simp only [List.append_assoc, List.nil_append]
      rw [clockHighWrites_startTrace, silent_sendTrace, silent_sendTrace, clockHighWrites_stop_respond]
    case low =>
      rw [run_addressActs_acked _ _ _ _ h0 h1, if_pos ⟨rfl, rfl⟩]
      obtain ⟨es, hrun, hes⟩ := hrest.start _
      rw [hrun, hs]
      simp only [List.append_assoc, List.nil_append]
      rw [clockHighWrites_startTrace, silent_sendTrace, silent_sendTrace, hes]

/-- Settles O40: between START and STOP every part of a command is silent, the repeated START of a READ excepted. -/
theorem dataStableWhileClockHigh : Obligations.DataStableWhileClockHigh := by
  intro s a r n _ hi hn
  exact ⟨⟨_, exec_write_run a r n s hi hn, writeBody_dataWrites a r n _ rfl⟩,
    ⟨_, exec_probe_run a s hi, probeBody_dataWrites a _ rfl⟩,
    ⟨_, exec_read_run a r n s hi hn, readBody_dataWrites a r n _ rfl⟩⟩

/-! ## The ephemeral registers -/

/-- `s` with other contents of the ephemeral registers that acceptance does not load. -/
def State.scratch (s : State) (i : Index) (v : Byte) (c : BitVec 4) (k x : Bool) : State :=
  { s with idx := i, shr := v, bitcnt := c, ackf := k, rxbit := x }

/-- No such register's contents before the list show after it, but in an ephemeral register. -/
def IgnoresScratch (l : List Act) : Prop :=
  ∀ (s : State) (i : Index) (v : Byte) (c : BitVec 4) (k x : Bool),
    (run l s).sameButEphemeral (run l (s.scratch i v c k x))

/-- The same of `IDX` alone. -/
def IgnoresIdx (l : List Act) : Prop :=
  ∀ (s : State) (i : Index), (run l s).sameButEphemeral (run l { s with idx := i })

theorem IgnoresScratch.idx {l : List Act} (h : IgnoresScratch l) : IgnoresIdx l :=
  fun s i => h s i s.shr s.bitcnt s.ackf s.rxbit

theorem IgnoresScratch.start {l : List Act} (h : IgnoresScratch l) : IgnoresScratch (startActs ++ l) := by
  intro s i v c k x
  rw [run_startActs, run_startActs]
  exact h _ i v c k x

/-- A transmitted byte writes every ephemeral register but `IDX` (R76, R79). -/
theorem IgnoresIdx.transmit {l : List Act} (h : IgnoresIdx l) (b : Byte) :
    IgnoresScratch (txbyteActs b ++ (wackActs ++ l)) := by
  intro s i v c k x
  rw [run_txbyteActs, run_wackActs, run_txbyteActs, run_wackActs]
  exact h _ i

theorem IgnoresIdx.abortIfNack {l : List Act} (h : IgnoresIdx l) : IgnoresIdx (.abortIfNack :: l) := by
  intro s i
  rcases Bool.eq_false_or_eq_true s.ackf with hack | hack
  · rw [run_abortIfNack_acked l s hack, run_abortIfNack_acked l { s with idx := i } hack]
    exact h s i
  · rw [run_abortIfNack_nacked l s hack, run_abortIfNack_nacked l { s with idx := i } hack, applyAll_abortActs,
      applyAll_abortActs]
    rfl

theorem IgnoresIdx.send {l : List Act} (h : IgnoresIdx l) (b : Byte) : IgnoresScratch (sendActs b ++ l) := by
  rw [sendActs, List.append_assoc, List.append_assoc]
  exact h.abortIfNack.transmit b

theorem IgnoresIdx.setPhase {l : List Act} (h : IgnoresIdx l) (p : Phase) : IgnoresIdx (.setPhase p :: l) := by
  intro s i
  rw [run_cons _ _ _ (by simp), run_cons _ _ _ (by simp)]
  exact h _ i

theorem ignoresIdx_clearIdx (l : List Act) : IgnoresIdx (.clearIdx :: l) := by
  intro s i
  rw [run_cons _ _ _ (by simp), run_cons _ _ _ (by simp)]
  rfl

/-- The address phase writes them all but `IDX` (R86, R89 steps 1 to 3). -/
theorem IgnoresIdx.address {l : List Act} (h : IgnoresIdx l) (a : Addr7) (r : Byte) :
    IgnoresScratch (addressActs a r ++ l) := by
  simp only [addressActs, List.append_assoc]
  exact ((((h.send r).idx.setPhase .writing).setPhase .addressed).send _).start

theorem ignoresScratch_writeBody (a : Addr7) (r : Byte) (n : Nat) : IgnoresScratch (writeBody a r n) := by
  simp only [writeBody, List.append_assoc]
  exact (ignoresIdx_clearIdx _).address a r

theorem ignoresScratch_readBody (a : Addr7) (r : Byte) (n : Nat) : IgnoresScratch (readBody a r n) := by
  simp only [readBody, List.append_assoc]
  exact (((ignoresIdx_clearIdx _).setPhase .addressed).send _).start.idx.address a r

theorem ignoresScratch_probeBody (a : Addr7) : IgnoresScratch (probeBody a) := by
  have hend : IgnoresIdx ([Act.addressedIfAck] ++ (stopActs ++ [Act.respondAck])) := by
    intro s i
    rw [List.singleton_append, run_cons _ _ _ (by simp), run_cons _ _ _ (by simp), run_stopActs, run_stopActs]
    rfl
  simp only [probeBody, List.append_assoc]
  exact (hend.transmit _).start

theorem ignoresScratch_bodyOrNoInit (s : State) {body : List Act} (h : IgnoresScratch body) :
    IgnoresScratch (bodyOrNoInit s body) := by
  unfold bodyOrNoInit
  split
  · exact h
  · exact fun _ _ _ _ _ _ => rfl

theorem ignoresScratch_bodyOf (s : State) (i : Instr) : IgnoresScratch (s.bodyOf i) := by
  cases i
  case init => exact fun t _ _ _ _ _ => by rw [State.bodyOf, run_initBody, run_initBody]; rfl
  case write a r n => exact ignoresScratch_bodyOrNoInit s (ignoresScratch_writeBody a r _)
  case read a r n => exact ignoresScratch_bodyOrNoInit s (ignoresScratch_readBody a r _)
  case probe a => exact ignoresScratch_bodyOrNoInit s (ignoresScratch_probeBody a)
  case start | stop | txbit | rxbit | txbyte | rxbyte | wack => exact fun _ _ _ _ _ _ => rfl

/-- A command loads the same latches whatever state accepts it (R12). -/
theorem exec_command_latches (i : Instr) (hc : i.isCommand = true) :
    ∃ op a r n, ∀ s, exec i s = .next (run (s.bodyOf i) (s.begun op a r n)) := by
  cases i <;> simp only [Instr.isCommand, Bool.false_eq_true] at hc
  case init => exact ⟨0x1#4, 0#7, 0#8, 0#12, fun s => congrArg Host.Outcome.next (finish_settle _ _)⟩
  case write a r n =>
    exact ⟨0x2#4, a, r, BitVec.ofNat 12 n, fun s => congrArg Host.Outcome.next (finish_settle _ _)⟩
  case read a r n =>
    exact ⟨0x3#4, a, r, BitVec.ofNat 12 n, fun s => congrArg Host.Outcome.next (finish_settle _ _)⟩
  case probe a => exact ⟨0x4#4, a, 0#8, 0#12, fun s => congrArg Host.Outcome.next (finish_settle _ _)⟩

/-- Two states that differ in the ephemeral registers are one, those registers written over (R12, R22). -/
theorem eq_latch_scratch_of_sameButEphemeral {s t : State} (h : s.sameButEphemeral t) :
    t = (s.latch t.op t.addr7 t.reg8 t.len).scratch t.idx t.shr t.bitcnt t.ackf t.rxbit := h

theorem sameButEphemeral_inited {s t : State} (h : s.sameButEphemeral t) : t.inited = s.inited := by
  rw [eq_latch_scratch_of_sameButEphemeral h]
  rfl

theorem sameButEphemeral_trace {s t : State} (h : s.sameButEphemeral t) : t.trace = s.trace := by
  rw [eq_latch_scratch_of_sameButEphemeral h]
  rfl

/-- Acceptance loads the latches, so that two such states begin alike but for the other ephemeral registers. -/
theorem begun_of_sameButEphemeral {s t : State} (h : s.sameButEphemeral t) (op : BitVec 4) (a : Addr7) (r : Byte)
    (n : Index) :
    t.begun op a r n = (s.begun op a r n).scratch t.idx t.shr t.bitcnt t.ackf t.rxbit := by
  have hbegun := congrArg (State.begun · op a r n) (eq_latch_scratch_of_sameButEphemeral h)
  exact hbegun

theorem bodyOf_congr {s t : State} (h : t.inited = s.inited) (i : Instr) : t.bodyOf i = s.bodyOf i := by
  cases i <;> simp only [State.bodyOf, bodyOrNoInit, h]

/-- Settles O43: acceptance loads the latches, and a body writes every other ephemeral register before it reads it. -/
theorem commandsIgnoreEphemeralRegisters : Obligations.CommandsIgnoreEphemeralRegisters := by
  intro s s' i hc _ _ hsame
  obtain ⟨op, a, r, n, hrun⟩ := exec_command_latches i hc
  have hrun' := hrun s'
  rw [bodyOf_congr (sameButEphemeral_inited hsame) i, begun_of_sameButEphemeral hsame] at hrun'
  have hend := ignoresScratch_bodyOf s i (s.begun op a r n) s'.idx s'.shr s'.bitcnt s'.ackf s'.rxbit
  exact ⟨_, _, hrun s, hrun', hend, (sameButEphemeral_trace hend).symm⟩

end Sys2Proof.Machine
end

section
/-! SUPPORT. Proofs of the statements of 20_memory.md: the buffers' accesses of every outcome, read off its trace, and
RXBUF after a READ. -/

namespace Sys2Proof.Machine

/-! ## The run of each command's body -/

theorem writeTrace_add_two (s : State) (a : Addr7) (r : Byte) (k : Nat) :
    writeTrace s a r (k + 2) = startTrace s.cfg.tHalf ++ sendTrace s.cfg.tHalf (addressByte a false) .low
      ++ sendTrace s.cfg.tHalf r .low ++ dataTraces s 0 k := by
  simp [writeTrace, dataTraces, List.range_succ_eq_map, List.flatMap_map, writeByteTrace]

/-- WRITE, every byte acknowledged (R86). -/
theorem run_writeBody_acked (a : Addr7) (r : Byte) (n : Nat) (s : State) (hn : n < 4096) (h : AllAcked s (n + 2)) :
    run (writeBody a r n) s = { s with
      sclOut := true, sdaOut := true, phase := .stopped, status := .ok, busy := false, ackf := true, shr := 0#8,
      bitcnt := 8#4, rxbit := false, idx := BitVec.ofNat 12 n, script := s.script.drop (n + 2),
      reads := s.reads + (n + 2), upc := s.upc + (103 + 46 * n),
      trace := s.trace ++ writeTrace s a r (n + 2) ++ stopTrace s.cfg.tHalf ++ [.rsp .ok] } := by
  simp only [writeBody, List.append_assoc]
  rw [run_addressActs_acked _ _ _ _ (h 0 (by omega)) (h 1 (by omega)), List.singleton_append,
    run_cons _ _ _ (by simp), run_writeLoop n 0 _ _ ⟨rfl, rfl, rfl, rfl, rfl, rfl⟩ rfl (by omega)
      (fun j hj => (answer_after s _ 2 j rfl rfl).trans (h _ (by omega))), run_stopActs, run_cons _ _ _ (by simp),
    run_nil]
  apply State.ext <;>
    simp [Act.apply, State.respond, State.emit, writeTrace_add_two, dataTraces, State.txByte] <;>
    omega

/-- WRITE whose transmitted byte `k` is the first not acknowledged (R86, R104). -/
theorem run_writeBody_nacked (a : Addr7) (r : Byte) (n k : Nat) (s : State) (hn : n < 4096) (hk : k < n + 2)
    (h : FirstNack s k) :
    run (writeBody a r n) s = { s with
      sclOut := true, sdaOut := true, phase := .stopped, status := .nack, busy := false, ackf := false, shr := 0#8,
      bitcnt := 8#4, rxbit := true, idx := if k < 2 then s.idx else BitVec.ofNat 12 (k - 2),
      script := s.script.drop (k + 1), reads := s.reads + (k + 1),
      upc := s.upc + if k < 2 then 58 + 45 * k else 103 + 46 * (k - 1),
      trace := s.trace ++ writeTrace s a r k ++ writeByteTrace s a r .high k ++ stopTrace s.cfg.tHalf
        ++ [.rsp .nack] } := by
  obtain ⟨hlow, hhigh⟩ := h
  simp only [writeBody, List.append_assoc]
  match k with
  | 0 =>
    rw [run_addressActs_nacked_address _ _ _ _ hhigh]
    simp [writeTrace, writeByteTrace]
  | 1 =>
    rw [run_addressActs_nacked_register _ _ _ _ (hlow 0 (by omega)) hhigh]
    simp [writeTrace, writeByteTrace]
  | j + 2 =>
    rw [run_addressActs_acked _ _ _ _ (hlow 0 (by omega)) (hlow 1 (by omega)), List.singleton_append,
      run_cons _ _ _ (by simp),
      run_writeLoop_nacked n j 0 _ _ ⟨rfl, rfl, rfl, rfl, rfl, rfl⟩ rfl (by omega) (by omega)
        (fun m hm => (answer_after s _ 2 m rfl rfl).trans (hlow _ (by omega)))
        ((answer_after s _ 2 j rfl rfl).trans (by rwa [Nat.add_comm]))]
    apply State.ext <;>
      simp [Act.apply, State.afterAbort, writeTrace_add_two, writeByteTrace, dataTraces, State.txByte,
        sendTrace_length] <;>
      omega

/-- The state in which READ's data phase begins (R89 steps 1 to 5), its three transmitted bytes acknowledged. -/
def State.readAddressed (s : State) (a : Addr7) (r : Byte) : State :=
  { s with
    sclOut := false, sdaOut := true, phase := .addressed, shr := 0#8, bitcnt := 8#4, rxbit := false, ackf := true,
    idx := 0#12, script := s.script.drop 3, reads := s.reads + 3, upc := s.upc + 147,
    trace := s.trace ++ readTrace s a r 3 }

/-- READ up to its data loop (R89). -/
theorem run_readBody_addressed (a : Addr7) (r : Byte) (n : Nat) (s : State) (h : AllAcked s 3) :
    run (readBody a r n) s =
      run (readLoop n 0 n ++ (stopActs ++ [.respond .ok])) (s.readAddressed a r) := by
  simp only [readBody, List.append_assoc]
  rw [run_addressActs_acked _ _ _ _ (h 0 (by omega)) (h 1 (by omega)), run_startActs, run_sendActs_acked _ _ _
    ((answer_after s _ 2 0 rfl rfl).trans (h 2 (by omega))), List.cons_append, List.singleton_append,
    run_cons _ _ _ (by simp), run_cons _ _ _ (by simp)]
  congr 1
  apply State.ext <;>
    simp [State.readAddressed, State.afterSend, Act.apply, readTrace, readSendTrace, List.range_succ_eq_map,
      sendTrace_length]

theorem recvTraces_readAddressed (s : State) (a : Addr7) (r : Byte) (n : Nat) :
    recvTraces (s.readAddressed a r) n 0 n = (List.range n).flatMap (readByteTrace s n) := by
  simp only [recvTraces, answers_after s (s.readAddressed a r) 3 _ 8 rfl rfl,
    byteRead_after s (s.readAddressed a r) 3 _ rfl rfl, Nat.zero_add]
  rfl

/-- READ, its three transmitted bytes acknowledged (R89). -/
theorem run_readBody_acked (a : Addr7) (r : Byte) (n : Nat) (s : State) (hn : n < 4096) (h : AllAcked s 3) :
    run (readBody a r n) s = { s with
      sclOut := true, sdaOut := true, phase := .stopped, status := .ok, busy := false, ackf := true,
      shr := if n = 0 then 0#8 else s.byteRead (3 + 8 * (n - 1)), bitcnt := 8#4,
      rxbit := (s.answer (2 + 8 * n)).bit, idx := BitVec.ofNat 12 n,
      script := s.script.drop (3 + 8 * n), reads := s.reads + (3 + 8 * n), upc := s.upc + (154 + 47 * n),
      rxbuf := storeAll s.rxbuf (fun i => s.byteRead (3 + 8 * i)) n,
      trace := s.trace ++ readTrace s a r 3 ++ (List.range n).flatMap (readByteTrace s n) ++ stopTrace s.cfg.tHalf
        ++ [.rsp .ok] } := by
  have hrxbit : (if n = 0 then false else ((s.readAddressed a r).answer (8 * n - 1)).bit) =
      (s.answer (2 + 8 * n)).bit := by
    split
    case isTrue h0 => rw [h0, h 2 (by omega), Level.bit]
    case isFalse h0 => rw [answer_after s (s.readAddressed a r) 3 _ rfl rfl, show 3 + (8 * n - 1) = 2 + 8 * n by omega]
  rw [run_readBody_addressed a r n s h, run_readLoop n n 0 _ _ rfl rfl (by omega), run_stopActs,
    run_cons _ _ _ (by simp), run_nil, recvTraces_readAddressed]
  simp only [byteRead_after s (s.readAddressed a r) 3 _ rfl rfl]
  apply State.ext
  case rxbit => exact hrxbit
  all_goals simp [State.readAddressed, Act.apply, State.respond, State.emit, storeAll] <;> omega

/-- READ whose transmitted byte `k` is the first not acknowledged (R89, R90, R104). -/
theorem run_readBody_nacked (a : Addr7) (r : Byte) (n k : Nat) (s : State) (hk : k < 3) (h : FirstNack s k) :
    run (readBody a r n) s = { s with
      sclOut := true, sdaOut := true, phase := .stopped, status := .nack, busy := false, ackf := false, shr := 0#8,
      bitcnt := 8#4, rxbit := true, script := s.script.drop (k + 1), reads := s.reads + (k + 1),
      upc := s.upc + if k < 2 then 58 + 45 * k else 154,
      trace := s.trace ++ readTrace s a r k ++ readSendTrace s a r .high k ++ stopTrace s.cfg.tHalf
        ++ [.rsp .nack] } := by
  obtain ⟨hlow, hhigh⟩ := h
  simp only [readBody, List.append_assoc]
  match k with
  | 0 =>
    rw [run_addressActs_nacked_address _ _ _ _ hhigh]
    simp [readTrace, readSendTrace]
  | 1 =>
    rw [run_addressActs_nacked_register _ _ _ _ (hlow 0 (by omega)) hhigh]
    simp [readTrace, readSendTrace]
  | 2 =>
    rw [run_addressActs_acked _ _ _ _ (hlow 0 (by omega)) (hlow 1 (by omega)), run_startActs,
      run_sendActs_nacked _ _ _ ((answer_after s _ 2 0 rfl rfl).trans hhigh)]
    simp [State.afterAbort, readTrace, readSendTrace, List.range_succ_eq_map, sendTrace_length]

/-- PROBE (R92). -/
theorem run_probeBody (a : Addr7) (s : State) :
    run (probeBody a) s = { s with
      sclOut := true, sdaOut := true, phase := .stopped, status := statusOfAck !(s.answer 0).bit, busy := false,
      ackf := !(s.answer 0).bit, shr := 0#8, bitcnt := 8#4, rxbit := (s.answer 0).bit,
      script := s.script.drop 1, reads := s.reads + 1, upc := s.upc + 58,
      trace := s.trace ++ startTrace s.cfg.tHalf ++ sendTrace s.cfg.tHalf (addressByte a false) (s.answer 0)
        ++ stopTrace s.cfg.tHalf ++ [.rsp (statusOfAck !(s.answer 0).bit)] } := by
  simp only [probeBody, List.append_assoc]
  rw [run_startActs, run_txbyteActs, run_wackActs, List.singleton_append, run_cons _ _ _ (by simp), run_stopActs,
    run_cons _ _ _ (by simp), run_nil]
  apply State.ext <;>
    simp [Act.apply, State.respond, State.emit, sendTrace, answer_of_env s]

/-! ## The buffer accesses of a trace -/

theorem loads_append (es fs : List Event) : loads (es ++ fs) = loads es ++ loads fs := by
  induction es with
  | nil => rfl
  | cons e es ih => cases e <;> simp [loads, ih]

theorem stores_append (es fs : List Event) : stores (es ++ fs) = stores es ++ stores fs := by
  induction es with
  | nil => rfl
  | cons e es ih => cases e <;> simp [stores, ih]

/-- The `LD` and the `ST` events of a trace are these, in order. -/
def Accesses (es : List Event) (lds sts : List (Index × Byte)) : Prop := loads es = lds ∧ stores es = sts

theorem Accesses.append {es fs : List Event} {lds sts lds' sts' : List (Index × Byte)} (h : Accesses es lds sts)
    (h' : Accesses fs lds' sts') : Accesses (es ++ fs) (lds ++ lds') (sts ++ sts') := by
  obtain ⟨rfl, rfl⟩ := h
  obtain ⟨rfl, rfl⟩ := h'
  exact ⟨loads_append es fs, stores_append es fs⟩

/-- Events that access no buffer, after a trace. -/
theorem Accesses.append_none {es fs : List Event} {lds sts : List (Index × Byte)} (h : Accesses es lds sts)
    (h' : Accesses fs [] []) : Accesses (es ++ fs) lds sts := by
  simpa using h.append h'

/-- Events that access no buffer, before a trace. -/
theorem Accesses.none_append {es fs : List Event} {lds sts : List (Index × Byte)} (h : Accesses es lds sts)
    (h' : Accesses fs [] []) : Accesses (fs ++ es) lds sts :=
  h'.append h

theorem Accesses.flatMap_none {α : Type} {f : α → List Event} (h : ∀ x, Accesses (f x) [] []) (l : List α) :
    Accesses (l.flatMap f) [] [] := by
  induction l with
  | nil => exact ⟨rfl, rfl⟩
  | cons x l ih => rw [List.flatMap_cons]; exact (h x).append ih

theorem accesses_startTrace (t : BitVec 16) : Accesses (startTrace t) [] [] := ⟨rfl, rfl⟩

theorem accesses_stop_respond (t : BitVec 16) (st : Status) : Accesses (stopTrace t ++ [.rsp st]) [] [] := ⟨rfl, rfl⟩

theorem accesses_sendTrace (t : BitVec 16) (v : Byte) (l : Level) : Accesses (sendTrace t v l) [] [] := ⟨rfl, rfl⟩

theorem accesses_receiveTrace (t : BitVec 16) (ls : List Level) (a : Bool) :
    Accesses (receiveTrace t ls a) [] [] := by
  have hsamples : Accesses (ls.flatMap (sampleTrace t)) [] [] := .flatMap_none (fun _ => ⟨rfl, rfl⟩) ls
  exact (hsamples.append_none (fs := bitTrace t (!a)) ⟨rfl, rfl⟩).none_append (fs := [.w .sda .high]) ⟨rfl, rfl⟩

/-- A data byte of WRITE is read from TXBUF once, just before it is sent (R31, R86). -/
theorem accesses_writeByteTrace_data (s : State) (a : Addr7) (r : Byte) (l : Level) (i : Nat) :
    Accesses (writeByteTrace s a r l (i + 2)) [(BitVec.ofNat 12 i, s.txByte i)] [] :=
  Accesses.append_none (es := [.ld _ _]) ⟨rfl, rfl⟩ (accesses_sendTrace _ _ l)

/-- The address byte and the register byte come from the latches. -/
theorem accesses_writeByteTrace_address (s : State) (a : Addr7) (r : Byte) (l : Level) (k : Nat) (hk : k < 2) :
    Accesses (writeByteTrace s a r l k) [] [] := by
  match k with
  | 0 | 1 => exact accesses_sendTrace _ _ l

theorem writeTrace_succ (s : State) (a : Addr7) (r : Byte) (k : Nat) :
    writeTrace s a r (k + 1) = writeTrace s a r k ++ writeByteTrace s a r .low k := by
  simp [writeTrace, List.range_succ]

theorem accesses_writeTrace_address (s : State) (a : Addr7) (r : Byte) (k : Nat) (hk : k ≤ 2) :
    Accesses (writeTrace s a r k) [] [] := by
  induction k with
  | zero => exact (accesses_startTrace _).append_none ⟨rfl, rfl⟩
  | succ k ih =>
    rw [writeTrace_succ]
    exact (ih (by omega)).append_none (accesses_writeByteTrace_address s a r .low k hk)

/-- WRITE reads its data bytes at 0, 1, 2, … (R31, R43). -/
theorem accesses_writeTrace_data (s : State) (a : Addr7) (r : Byte) (k : Nat) :
    Accesses (writeTrace s a r (k + 2)) ((List.range k).map fun i => (BitVec.ofNat 12 i, s.txByte i)) [] := by
  induction k with
  | zero => exact accesses_writeTrace_address s a r 2 (Nat.le_refl 2)
  | succ k ih =>
    rw [Nat.add_right_comm, writeTrace_succ, List.range_succ, List.map_append]
    exact ih.append (accesses_writeByteTrace_data s a r .low k)

theorem accesses_readSendTrace (s : State) (a : Addr7) (r : Byte) (l : Level) (k : Nat) :
    Accesses (readSendTrace s a r l k) [] [] := by
  match k with
  | 0 | 1 => exact accesses_sendTrace _ _ l
  | _ + 2 => exact (accesses_startTrace _).append_none (accesses_sendTrace _ _ l)

theorem accesses_readTrace (s : State) (a : Addr7) (r : Byte) (k : Nat) : Accesses (readTrace s a r k) [] [] :=
  (accesses_startTrace _).append_none (.flatMap_none (accesses_readSendTrace s a r .low) _)

/-- A received byte is written to RXBUF once, when it is complete (R32, R89). -/
theorem accesses_readByteTrace (s : State) (n i : Nat) :
    Accesses (readByteTrace s n i) [] [(BitVec.ofNat 12 i, s.byteRead (3 + 8 * i))] :=
  Accesses.none_append (es := [.st _ _]) ⟨rfl, rfl⟩ (accesses_receiveTrace _ _ _)

/-- READ writes the bytes it receives at 0, 1, 2, … (R32, R43). -/
theorem accesses_readData (s : State) (n k : Nat) :
    Accesses ((List.range k).flatMap (readByteTrace s n)) []
      ((List.range k).map fun i => (BitVec.ofNat 12 i, s.byteRead (3 + 8 * i))) := by
  induction k with
  | zero => exact ⟨rfl, rfl⟩
  | succ k ih =>
    rw [List.range_succ, List.flatMap_append, List.map_append, List.flatMap_singleton]
    exact ih.append (accesses_readByteTrace s n k)

/-! ## The buffer accesses of every outcome -/

theorem accesses_writeBody_acked (a : Addr7) (r : Byte) (n : Nat) (s : State) (hs : s.trace = []) (hn : n < 4096)
    (h : AllAcked s (n + 2)) :
    Accesses (run (writeBody a r n) s).trace ((List.range n).map fun i => (BitVec.ofNat 12 i, s.txByte i)) [] := by
  rw [run_writeBody_acked a r n s hn h, hs, List.append_assoc]
  exact (accesses_writeTrace_data s a r n).append_none (accesses_stop_respond _ _)

theorem accesses_writeBody_nacked_address (a : Addr7) (r : Byte) (n k : Nat) (s : State) (hs : s.trace = [])
    (hn : n < 4096) (hk : k < 2) (h : FirstNack s k) : Accesses (run (writeBody a r n) s).trace [] [] := by
  rw [run_writeBody_nacked a r n k s hn (by omega) h, hs, List.append_assoc]
  exact ((accesses_writeTrace_address s a r k (by omega)).append_none
    (accesses_writeByteTrace_address s a r .high k hk)).append_none (accesses_stop_respond _ _)

/-- The byte refused is read as well. -/
theorem accesses_writeBody_nacked_data (a : Addr7) (r : Byte) (n k : Nat) (s : State) (hs : s.trace = [])
    (hn : n < 4096) (hk : k < n) (h : FirstNack s (k + 2)) :
    Accesses (run (writeBody a r n) s).trace
      ((List.range (k + 1)).map fun i => (BitVec.ofNat 12 i, s.txByte i)) [] := by
  rw [run_writeBody_nacked a r n (k + 2) s hn (by omega) h, hs, List.append_assoc, List.range_succ, List.map_append]
  exact ((accesses_writeTrace_data s a r k).append (accesses_writeByteTrace_data s a r .high k)).append_none
    (accesses_stop_respond _ _)

theorem accesses_readBody_acked (a : Addr7) (r : Byte) (n : Nat) (s : State) (hs : s.trace = []) (hn : n < 4096)
    (h : AllAcked s 3) :
    Accesses (run (readBody a r n) s).trace []
      ((List.range n).map fun i => (BitVec.ofNat 12 i, s.byteRead (3 + 8 * i))) := by
  rw [run_readBody_acked a r n s hn h, hs, List.append_assoc]
  exact ((accesses_readData s n n).none_append (accesses_readTrace s a r 3)).append_none (accesses_stop_respond _ _)

theorem accesses_readBody_nacked (a : Addr7) (r : Byte) (n k : Nat) (s : State) (hs : s.trace = []) (hk : k < 3)
    (h : FirstNack s k) : Accesses (run (readBody a r n) s).trace [] [] := by
  rw [run_readBody_nacked a r n k s hk h, hs, List.append_assoc]
  exact ((accesses_readTrace s a r k).append_none (accesses_readSendTrace s a r .high k)).append_none
    (accesses_stop_respond _ _)

theorem accesses_probeBody (a : Addr7) (s : State) (hs : s.trace = []) :
    Accesses (run (probeBody a) s).trace [] [] := by
  rw [run_probeBody, hs, List.append_assoc]
  exact ((accesses_startTrace _).append_none (accesses_sendTrace _ _ _)).append_none (accesses_stop_respond _ _)

theorem accesses_initBody (s : State) (hs : s.trace = []) : Accesses (run initBody s).trace [] [] := by
  rw [run_initBody, hs]
  exact ⟨rfl, rfl⟩

/-! ## The statements -/

/-- Settles O33: a successful READ stores the received bytes in order, and RXBUF reads as the bytes stored. -/
theorem readStoresBytesInOrder : Obligations.ReadStoresBytesInOrder := by
  intro s a r n _ hi hn hrx hack
  have hget (i : Nat) := storeAll_get s.rxbuf hrx (fun i => s.byteRead (3 + 8 * i)) n (Nat.le_of_lt hn) i
  have hrun := run_readBody_acked a r n (s.begun 0x3#4 a r (BitVec.ofNat 12 n)) hn hack
  exact ⟨_, (exec_read_run a r n s hi hn).trans (congrArg _ hrun), rfl, fun i hlt => (hget i).trans (if_pos hlt),
    fun i hle => (hget i).trans (if_neg (by omega))⟩

/-- Settles O35: outcome by outcome, the accesses are those of the parts of its trace. -/
theorem bufferAccessesAscend : Obligations.BufferAccessesAscend := by
  intro s a r n _ hi hn
  obtain ⟨op, a', r', n', hinit⟩ := exec_eq_run_bodyOf .init rfl s
  refine ⟨fun h => ?_, fun k hk h => ?_, fun k hk h => ?_, fun h => ?_, fun k hk h => ?_, ?_, ?_⟩
  · exact ⟨_, exec_write_run a r n s hi hn, accesses_writeBody_acked a r n _ rfl hn h⟩
  · exact ⟨_, exec_write_run a r n s hi hn, accesses_writeBody_nacked_address a r n k _ rfl hn hk h⟩
  · exact ⟨_, exec_write_run a r n s hi hn, accesses_writeBody_nacked_data a r n k _ rfl hn hk h⟩
  · obtain ⟨hloads, hstores⟩ := accesses_readBody_acked a r n (s.begun 0x3#4 a r (BitVec.ofNat 12 n)) rfl hn h
    exact ⟨_, exec_read_run a r n s hi hn, hstores, hloads⟩
  · exact ⟨_, exec_read_run a r n s hi hn, accesses_readBody_nacked a r n k _ rfl hk h⟩
  · exact ⟨_, exec_probe_run a s hi, accesses_probeBody a _ rfl⟩
  · exact ⟨_, hinit, accesses_initBody _ rfl⟩

end Sys2Proof.Machine
end

section
/-! SUPPORT. Proofs of the statements of 30_encoding.md: the words of both formats by their fields, the assembler, the
words that are no instruction, the calls on the platform, and the frames on the wire. -/

namespace Sys2Proof.Machine

/-! ## Words by their fields -/

theorem append_eq_append_iff {m n : Nat} {x y : BitVec m} {z w : BitVec n} : x ++ z = y ++ w ↔ x = y ∧ z = w := by
  constructor
  · intro h
    have hhigh := congrArg (BitVec.extractLsb' n m) h
    have hlow := congrArg (BitVec.extractLsb' 0 n) h
    rw [BitVec.extractLsb'_append_eq_left, BitVec.extractLsb'_append_eq_left] at hhigh
    rw [BitVec.extractLsb'_append_eq_right, BitVec.extractLsb'_append_eq_right] at hlow
    exact ⟨hhigh, hlow⟩
  · rintro ⟨rfl, rfl⟩
    rfl

/-- The CMD32 word of its five fields, `Z` among them (R55). -/
def cmdFields (op : BitVec 4) (z : BitVec 1) (a : Addr7) (r : Byte) (n : Index) : BitVec 32 :=
  op ++ z ++ a ++ r ++ n

/-- A command word is made of its fields (R55). -/
theorem cmdFields_of_word (w : BitVec 32) :
    cmdFields (cmdOp w) (cmdZ w) (cmdAddr7 w) (cmdReg8 w) (cmdLen w) = w := by
  unfold cmdFields cmdOp cmdZ cmdAddr7 cmdReg8 cmdLen
  rw [BitVec.extractLsb'_append_extractLsb'_eq_extractLsb' (by rfl),
    BitVec.extractLsb'_append_extractLsb'_eq_extractLsb' (by rfl),
    BitVec.extractLsb'_append_extractLsb'_eq_extractLsb' (by rfl),
    BitVec.extractLsb'_append_extractLsb'_eq_extractLsb' (by rfl), BitVec.extractLsb'_eq_self]

/-- The encoder writes `Z` = 0. -/
theorem cmdWord_of_word {w : BitVec 32} (hz : cmdZ w = 0#1) :
    cmdWord (cmdOp w) (cmdAddr7 w) (cmdReg8 w) (cmdLen w) = w := by
  have hw := cmdFields_of_word w
  rwa [hz] at hw

theorem cmdFields_and (op op' : BitVec 4) (z z' : BitVec 1) (a a' : Addr7) (r r' : Byte) (n n' : Index) :
    cmdFields op z a r n &&& cmdFields op' z' a' r' n' =
      cmdFields (op &&& op') (z &&& z') (a &&& a') (r &&& r') (n &&& n') := by
  show (op ++ z ++ a ++ r ++ n : BitVec (4 + 1 + 7 + 8 + 12)) &&& (op' ++ z' ++ a' ++ r' ++ n') = _
  simp only [BitVec.and_append]
  rfl

theorem cmdFields_inj {op op' : BitVec 4} {z z' : BitVec 1} {a a' : Addr7} {r r' : Byte} {n n' : Index} :
    cmdFields op z a r n = cmdFields op' z' a' r' n' ↔ op = op' ∧ z = z' ∧ a = a' ∧ r = r' ∧ n = n' := by
  show (op ++ z ++ a ++ r ++ n : BitVec (4 + 1 + 7 + 8 + 12)) = op' ++ z' ++ a' ++ r' ++ n' ↔ _
  simp only [append_eq_append_iff, and_assoc]

/-- A row of R56, mask and pattern written by fields, compares field by field. -/
theorem hit_cmdFields_iff (w : BitVec 32) (op op' : BitVec 4) (z z' : BitVec 1) (a a' : Addr7) (r r' : Byte)
    (n n' : Index) :
    Row.hit ⟨cmdFields op z a r n, cmdFields op' z' a' r' n'⟩ w = true ↔
      cmdOp w &&& op' = op ∧ cmdZ w &&& z' = z ∧ cmdAddr7 w &&& a' = a ∧ cmdReg8 w &&& r' = r ∧
        cmdLen w &&& n' = n := by
  rw [← cmdFields_inj, ← cmdFields_and, cmdFields_of_word]
  exact decide_eq_true_iff

theorem initRow_hit_iff (w : BitVec 32) :
    initRow.hit w = true ↔
      cmdOp w = 0x1#4 ∧ cmdZ w = 0#1 ∧ cmdAddr7 w = 0#7 ∧ cmdReg8 w = 0#8 ∧ cmdLen w = 0#12 :=
  (hit_cmdFields_iff w 0x1#4 (.allOnes 4) 0#1 (.allOnes 1) 0#7 (.allOnes 7) 0#8 (.allOnes 8) 0#12 (.allOnes 12)).trans
    (by simp only [BitVec.and_allOnes])

theorem writeRow_hit_iff (w : BitVec 32) : writeRow.hit w = true ↔ cmdOp w = 0x2#4 ∧ cmdZ w = 0#1 :=
  (hit_cmdFields_iff w 0x2#4 (.allOnes 4) 0#1 (.allOnes 1) 0#7 0#7 0#8 0#8 0#12 0#12).trans
    (by simp only [BitVec.and_allOnes, BitVec.and_zero, and_true])

theorem readRow_hit_iff (w : BitVec 32) : readRow.hit w = true ↔ cmdOp w = 0x3#4 ∧ cmdZ w = 0#1 :=
  (hit_cmdFields_iff w 0x3#4 (.allOnes 4) 0#1 (.allOnes 1) 0#7 0#7 0#8 0#8 0#12 0#12).trans
    (by simp only [BitVec.and_allOnes, BitVec.and_zero, and_true])

theorem probeRow_hit_iff (w : BitVec 32) :
    probeRow.hit w = true ↔ cmdOp w = 0x4#4 ∧ cmdZ w = 0#1 ∧ cmdReg8 w = 0#8 ∧ cmdLen w = 0#12 :=
  (hit_cmdFields_iff w 0x4#4 (.allOnes 4) 0#1 (.allOnes 1) 0#7 0#7 0#8 (.allOnes 8) 0#12 (.allOnes 12)).trans
    (by simp only [BitVec.and_allOnes, BitVec.and_zero, true_and])

/-! ## Micro-operation words by their fields -/

/-- A UOP12 word is made of its fields (R59). -/
theorem uopWord_of_word (w : BitVec 12) : uopWord (uopCode w) (uopArg w) = w := by
  unfold uopWord uopCode uopArg
  rw [BitVec.extractLsb'_append_extractLsb'_eq_extractLsb' (by rfl), BitVec.extractLsb'_eq_self]

@[simp] theorem uopCode_uopWord (c : BitVec 4) (v : Byte) : uopCode (uopWord c v) = c :=
  BitVec.extractLsb'_append_eq_left

@[simp] theorem uopArg_uopWord (c : BitVec 4) (v : Byte) : uopArg (uopWord c v) = v :=
  BitVec.extractLsb'_append_eq_right

/-- A row of R59 fixes `UOPC` and the bits `m` of `ARG`, these at 0. -/
theorem hit_uopWord_iff (w : BitVec 12) (c : BitVec 4) (m : Byte) :
    Row.hit ⟨uopWord c 0#8, uopWord (.allOnes 4) m⟩ w = true ↔ uopCode w = c ∧ uopArg w &&& m = 0#8 := by
  have hand : w &&& uopWord (.allOnes 4) m = uopWord (uopCode w) (uopArg w &&& m) := by
    conv_lhs => rw [← uopWord_of_word w]
    exact BitVec.and_append.trans (by rw [BitVec.and_allOnes]; rfl)
  rw [Row.hit, decide_eq_true_iff, hand]
  exact append_eq_append_iff

/-- A row without operand fixes every bit of `ARG`. -/
theorem hit_bareRow_iff (w : BitVec 12) (c : BitVec 4) :
    Row.hit ⟨uopWord c 0#8, uopWord (.allOnes 4) (.allOnes 8)⟩ w = true ↔ uopCode w = c ∧ uopArg w = 0#8 := by
  rw [hit_uopWord_iff, BitVec.and_allOnes]

/-- The bits 7:1 of `ARG` in a word. -/
theorem uopArg_extractLsb' (w : BitVec 12) : (uopArg w).extractLsb' 1 7 = w.extractLsb' 1 7 := by
  apply BitVec.eq_of_getLsbD_eq
  intro i hi
  simp [uopArg]

/-- A row with a one-bit operand leaves bit 0 of `ARG` free. -/
theorem hit_bitRow_iff (w : BitVec 12) (c : BitVec 4) :
    Row.hit ⟨uopWord c 0#8, uopWord (.allOnes 4) 0xFE#8⟩ w = true ↔ uopCode w = c ∧ w.extractLsb' 1 7 = 0#7 := by
  have hbits : ∀ v : Byte, v &&& 0xFE#8 = 0#8 ↔ v.extractLsb' 1 7 = 0#7 := by decide
  rw [hit_uopWord_iff, hbits, uopArg_extractLsb']

theorem startRow_hit_iff (w : BitVec 12) : startRow.hit w = true ↔ uopCode w = 0x1#4 ∧ uopArg w = 0#8 :=
  hit_bareRow_iff w 0x1#4

theorem stopRow_hit_iff (w : BitVec 12) : stopRow.hit w = true ↔ uopCode w = 0x2#4 ∧ uopArg w = 0#8 :=
  hit_bareRow_iff w 0x2#4

theorem txbitRow_hit_iff (w : BitVec 12) :
    txbitRow.hit w = true ↔ uopCode w = 0x3#4 ∧ w.extractLsb' 1 7 = 0#7 :=
  hit_bitRow_iff w 0x3#4

theorem rxbitRow_hit_iff (w : BitVec 12) : rxbitRow.hit w = true ↔ uopCode w = 0x4#4 ∧ uopArg w = 0#8 :=
  hit_bareRow_iff w 0x4#4

theorem txbyteRow_hit_iff (w : BitVec 12) : txbyteRow.hit w = true ↔ uopCode w = 0x5#4 :=
  (hit_uopWord_iff w 0x5#4 0#8).trans (by rw [BitVec.and_zero, eq_self, and_true])

theorem rxbyteRow_hit_iff (w : BitVec 12) :
    rxbyteRow.hit w = true ↔ uopCode w = 0x6#4 ∧ w.extractLsb' 1 7 = 0#7 :=
  hit_bitRow_iff w 0x6#4

theorem wackRow_hit_iff (w : BitVec 12) : wackRow.hit w = true ↔ uopCode w = 0x7#4 ∧ uopArg w = 0#8 :=
  hit_bareRow_iff w 0x7#4

/-! ## Decoding and encoding -/

/-- A micro-operation's word decodes to the micro-operation (R59, R63). -/
theorem decode_encode_uop (i : Instr) (hc : i.isCommand = false) : decode (encode i) = .ok i := by
  cases i
  case txbit b => cases b <;> decide
  case rxbyte a => cases a <;> decide
  case txbyte v =>
    simp [decode, encode, decodeUop, startRow_hit_iff, stopRow_hit_iff, txbitRow_hit_iff, rxbitRow_hit_iff,
      txbyteRow_hit_iff]
  case start | stop | rxbit | wack => decide
  case init | write | read | probe => cases hc

/-- Settles O2: of the two formats, the commands' words and the micro-operations' words. -/
theorem decodeOfEncode : Obligations.DecodeOfEncode := by
  intro i hwf
  cases hc : i.isCommand
  case true => exact decode_encode_command i hc hwf
  case false => exact decode_encode_uop i hc

/-- A command word decodes by the one row it selects (R56). -/
theorem decodeCmd_cases {w : BitVec 32} {i : Instr} (h : decodeCmd w = .ok i) :
    (initRow.hit w = true ∧ i = .init) ∨
    (writeRow.hit w = true ∧ i = .write (cmdAddr7 w) (cmdReg8 w) (cmdLen w).toNat) ∨
    (readRow.hit w = true ∧ i = .read (cmdAddr7 w) (cmdReg8 w) (cmdLen w).toNat) ∨
    (probeRow.hit w = true ∧ i = .probe (cmdAddr7 w)) := by
  unfold decodeCmd at h
  split_ifs at h with hinit hwrite hread hprobe <;> obtain rfl := Decoded.ok.inj h
  · exact .inl ⟨hinit, rfl⟩
  · exact .inr (.inl ⟨hwrite, rfl⟩)
  · exact .inr (.inr (.inl ⟨hread, rfl⟩))
  · exact .inr (.inr (.inr ⟨hprobe, rfl⟩))

/-- A UOP12 word decodes by the one row it selects (R59). -/
theorem decodeUop_cases {w : BitVec 12} {i : Instr} (h : decodeUop w = .ok i) :
    (startRow.hit w = true ∧ i = .start) ∨ (stopRow.hit w = true ∧ i = .stop) ∨
    (txbitRow.hit w = true ∧ i = .txbit (w.getLsbD 0)) ∨ (rxbitRow.hit w = true ∧ i = .rxbit) ∨
    (txbyteRow.hit w = true ∧ i = .txbyte (uopArg w)) ∨
    (rxbyteRow.hit w = true ∧ i = .rxbyte (w.getLsbD 0)) ∨ (wackRow.hit w = true ∧ i = .wack) := by
  unfold decodeUop at h
  split_ifs at h <;> obtain rfl := Decoded.ok.inj h <;> simp [*]

/-- The instruction a command word decodes to encodes to it (R55, R56). -/
theorem encode_of_decodeCmd {w : BitVec 32} {i : Instr} (h : decodeCmd w = .ok i) :
    i.wellFormed = true ∧ encode i = .cmd w := by
  have hlt : (cmdLen w).toNat < 4096 := (cmdLen w).isLt
  have hlen : BitVec.ofNat 12 (cmdLen w).toNat = cmdLen w := by rw [BitVec.ofNat_toNat, BitVec.setWidth_eq]
  rcases decodeCmd_cases h with ⟨hhit, rfl⟩ | ⟨hhit, rfl⟩ | ⟨hhit, rfl⟩ | ⟨hhit, rfl⟩
  · obtain ⟨hop, hz, ha, hr, hn⟩ := (initRow_hit_iff w).mp hhit
    have hw := cmdWord_of_word hz
    rw [hop, ha, hr, hn] at hw
    exact ⟨rfl, congrArg PortWord.cmd hw⟩
  · obtain ⟨hop, hz⟩ := (writeRow_hit_iff w).mp hhit
    have hw := cmdWord_of_word hz
    rw [hop, ← hlen] at hw
    exact ⟨decide_eq_true hlt, congrArg PortWord.cmd hw⟩
  · obtain ⟨hop, hz⟩ := (readRow_hit_iff w).mp hhit
    have hw := cmdWord_of_word hz
    rw [hop, ← hlen] at hw
    exact ⟨decide_eq_true hlt, congrArg PortWord.cmd hw⟩
  · obtain ⟨hop, hz, hr, hn⟩ := (probeRow_hit_iff w).mp hhit
    have hw := cmdWord_of_word hz
    rw [hop, hr, hn] at hw
    exact ⟨rfl, congrArg PortWord.cmd hw⟩

/-- `ARG` with its must-be-zero bits 7:1 zero is its bit 0 (R59). -/
theorem uopArg_eq_argBit {w : BitVec 12} (h : w.extractLsb' 1 7 = 0#7) : uopArg w = argBit (w.getLsbD 0) := by
  have hbyte : ∀ v : Byte, v.extractLsb' 1 7 = 0#7 → v = argBit (v.getLsbD 0) := by decide
  have hbit : (uopArg w).getLsbD 0 = w.getLsbD 0 := by simp [uopArg]
  rw [← hbit]
  exact hbyte (uopArg w) ((uopArg_extractLsb' w).trans h)

/-- The micro-operation a UOP12 word decodes to encodes to it (R59). -/
theorem encode_of_decodeUop {w : BitVec 12} {i : Instr} (h : decodeUop w = .ok i) :
    i.wellFormed = true ∧ encode i = .uop w := by
  have hword {c : BitVec 4} {v : Byte} (hc : uopCode w = c) (hv : uopArg w = v) :
      PortWord.uop (uopWord c v) = .uop w := by
    rw [← hc, ← hv, uopWord_of_word]
  rcases decodeUop_cases h with ⟨hhit, rfl⟩ | ⟨hhit, rfl⟩ | ⟨hhit, rfl⟩ | ⟨hhit, rfl⟩ | ⟨hhit, rfl⟩ | ⟨hhit, rfl⟩ |
    ⟨hhit, rfl⟩
  · obtain ⟨hcode, harg⟩ := (startRow_hit_iff w).mp hhit
    exact ⟨rfl, hword hcode harg⟩
  · obtain ⟨hcode, harg⟩ := (stopRow_hit_iff w).mp hhit
    exact ⟨rfl, hword hcode harg⟩
  · obtain ⟨hcode, hzero⟩ := (txbitRow_hit_iff w).mp hhit
    exact ⟨rfl, hword hcode (uopArg_eq_argBit hzero)⟩
  · obtain ⟨hcode, harg⟩ := (rxbitRow_hit_iff w).mp hhit
    exact ⟨rfl, hword hcode harg⟩
  · exact ⟨rfl, hword ((txbyteRow_hit_iff w).mp hhit) rfl⟩
  · obtain ⟨hcode, hzero⟩ := (rxbyteRow_hit_iff w).mp hhit
    exact ⟨rfl, hword hcode (uopArg_eq_argBit hzero)⟩
  · obtain ⟨hcode, harg⟩ := (wackRow_hit_iff w).mp hhit
    exact ⟨rfl, hword hcode harg⟩

/-- Settles O3: the row a word selects fixes every bit that is no operand. -/
theorem encodeOfDecode : Obligations.EncodeOfDecode := by
  intro w i h
  cases w
  case cmd w => exact encode_of_decodeCmd h
  case uop w => exact encode_of_decodeUop h

/-- A word is rejected exactly if it does not decode. -/
theorem rejected_iff_not_ok (d : Decoded) : (∃ e, d = .rejected e) ↔ ¬ ∃ i, d = .ok i := by
  cases d <;> simp

/-- A command word decodes exactly if it selects a row (R56). -/
theorem decodeCmd_ok_iff (w : BitVec 32) :
    (∃ i, decodeCmd w = .ok i) ↔ ∃ row ∈ cmdRows, row.hit w = true := by
  simp only [decodeCmd, cmdRows, List.exists_mem_cons_iff, List.not_mem_nil, false_and, exists_false, or_false]
  split_ifs <;> simp [*]

/-- The operation of a word that selects a row (R56). -/
theorem cmdOp_of_hit :
    ∀ row ∈ cmdRows, ∀ w : BitVec 32, row.hit w = true → cmdOp w = row.pattern.extractLsb' 28 4 := by
  simp only [cmdRows, List.forall_mem_cons]
  exact ⟨fun w h => ((initRow_hit_iff w).mp h).1, fun w h => ((writeRow_hit_iff w).mp h).1,
    fun w h => ((readRow_hit_iff w).mp h).1, fun w h => ((probeRow_hit_iff w).mp h).1, by simp⟩

/-- Settles O4: the decoder tries the rows, and no two rows have one operation. -/
theorem commandWordsSelectOneRow : Obligations.CommandWordsSelectOneRow := by
  have hops : cmdRows.Pairwise fun p q => p.pattern.extractLsb' 28 4 ≠ q.pattern.extractLsb' 28 4 := by decide
  refine ⟨fun w => ?_, hops.imp_of_mem fun {p q} hp hq hne w hboth => hne ?_⟩
  · simp only [decodeCmd_ok_iff, Row.hit, decide_eq_true_iff]
  · obtain ⟨hhitp, hhitq⟩ := hboth
    rw [← cmdOp_of_hit p hp w (decide_eq_true hhitp), ← cmdOp_of_hit q hq w (decide_eq_true hhitq)]

/-- The bits 19:0 of a command word are `REG8` and `LEN` (R55). -/
theorem extractLsb'_20_eq_zero_iff (w : BitVec 32) :
    w.extractLsb' 0 20 = 0#20 ↔ cmdReg8 w = 0#8 ∧ cmdLen w = 0#12 := by
  have hsplit : w.extractLsb' 0 20 = cmdReg8 w ++ cmdLen w :=
    (BitVec.extractLsb'_append_extractLsb'_eq_extractLsb' (start₂ := 12) (len₁ := 12) (len₂ := 8) rfl).symm
  rw [hsplit]
  exact append_eq_append_iff (y := 0#8) (w := 0#12)

/-- The bits 27:0 are `Z` and every field but `OP` (R55). -/
theorem extractLsb'_28_eq_zero_iff (w : BitVec 32) :
    w.extractLsb' 0 28 = 0#28 ↔ cmdZ w = 0#1 ∧ cmdAddr7 w = 0#7 ∧ cmdReg8 w = 0#8 ∧ cmdLen w = 0#12 := by
  have hsplit : w.extractLsb' 0 28 = cmdZ w ++ (cmdAddr7 w ++ w.extractLsb' 0 20) := by
    unfold cmdZ cmdAddr7
    rw [BitVec.extractLsb'_append_extractLsb'_eq_extractLsb' (by rfl)]
    exact (BitVec.extractLsb'_append_extractLsb'_eq_extractLsb' (start₂ := 27) (len₁ := 27) (len₂ := 1) rfl).symm
  rw [hsplit, ← extractLsb'_20_eq_zero_iff, ← append_eq_append_iff, ← append_eq_append_iff]
  rfl

/-- Settles O5: for each operation of R56 what is left of its row's condition is `Z` and the unused fields. -/
theorem illegalCommandWords : Obligations.IllegalCommandWords := by
  intro w
  have hreserved : ∀ op : BitVec 4, op = 0x0#4 ∨ 0x5#4 ≤ op ↔ op ∉ [0x1#4, 0x2#4, 0x3#4, 0x4#4] := by decide
  have hz : ∀ z : BitVec 1, z = 1#1 ↔ z ≠ 0#1 := by decide
  rw [rejected_iff_not_ok, decodeCmd_ok_iff, ← or_assoc, hreserved, hz]
  simp only [cmdRows, List.exists_mem_cons_iff, List.not_mem_nil, ne_eq, initRow_hit_iff, writeRow_hit_iff,
    readRow_hit_iff, probeRow_hit_iff, extractLsb'_20_eq_zero_iff, extractLsb'_28_eq_zero_iff]
  by_cases hlegal : cmdOp w ∈ [0x1#4, 0x2#4, 0x3#4, 0x4#4]
  · simp only [List.mem_cons, List.not_mem_nil, or_false] at hlegal
    rcases hlegal with hop | hop | hop | hop
    · simp [hop]
      tauto
    · simp [hop]
    · simp [hop]
    · simp [hop]
      tauto
  · simp only [List.mem_cons, List.not_mem_nil, or_false, not_or] at hlegal
    simp [hlegal]

/-- A UOP12 word decodes exactly if it selects a row (R59). -/
theorem decodeUop_ok_iff (w : BitVec 12) :
    (∃ i, decodeUop w = .ok i) ↔ ∃ row ∈ uopRows, row.hit w = true := by
  simp only [decodeUop, uopRows, List.exists_mem_cons_iff, List.not_mem_nil, false_and, exists_false, or_false]
  split_ifs <;> simp [*]

/-- Settles O6: for each code of R59 what is left of its row's condition is the must-be-zero bits of `ARG`. -/
theorem microOperationWords : Obligations.MicroOperationWords := by
  refine ⟨fun w => by simp only [decodeUop_ok_iff, Row.hit, decide_eq_true_iff], fun w => ?_⟩
  have hreserved : ∀ code : BitVec 4, code = 0x0#4 ∨ 0x8#4 ≤ code ↔
      code ∉ [0x1#4, 0x2#4, 0x3#4, 0x4#4, 0x5#4, 0x6#4, 0x7#4] := by decide
  rw [rejected_iff_not_ok, decodeUop_ok_iff, ← or_assoc, hreserved]
  simp only [uopRows, List.exists_mem_cons_iff, List.not_mem_nil, ne_eq, startRow_hit_iff, stopRow_hit_iff,
    txbitRow_hit_iff, rxbitRow_hit_iff, txbyteRow_hit_iff, rxbyteRow_hit_iff, wackRow_hit_iff]
  by_cases hlegal : uopCode w ∈ [0x1#4, 0x2#4, 0x3#4, 0x4#4, 0x5#4, 0x6#4, 0x7#4]
  · simp only [List.mem_cons, List.not_mem_nil, or_false] at hlegal
    rcases hlegal with hcode | hcode | hcode | hcode | hcode | hcode | hcode <;> simp [hcode]
  · simp only [List.mem_cons, List.not_mem_nil, or_false, not_or] at hlegal
    simp [hlegal]

/-- Settles O1: each word is fixed. -/
theorem specWordsDecode : Obligations.SpecWordsDecode := by
  unfold Obligations.SpecWordsDecode
  decide

/-! ## The address byte and the assembler -/

theorem toNat_append_eq_mul_add {m n : Nat} (x : BitVec m) (y : BitVec n) :
    (x ++ y).toNat = x.toNat * 2 ^ n + y.toNat := by
  rw [BitVec.toNat_append, ← Nat.shiftLeft_add_eq_or_of_lt y.isLt, Nat.shiftLeft_eq]

/-- Settles O7: shifting the address left makes room for the direction. -/
theorem addressByteIsAddressAndDirection : Obligations.AddressByteIsAddressAndDirection := by
  intro a dir
  have hbyte : addressByte a dir = a ++ BitVec.ofBool dir := by revert a; cases dir <;> decide
  have hnat : (addressByte a dir).toNat = a.toNat * 2 + dir.toNat := by
    rw [hbyte, ← BitVec.toNat_ofBool]
    exact toNat_append_eq_mul_add a (BitVec.ofBool dir)
  have hlt : a.toNat < 128 := a.isLt
  refine ⟨hbyte, ?_⟩
  cases dir <;> simp only [hnat, Bool.toNat, cond, Bool.false_eq_true, if_false, if_true] <;> omega

/-- The number a command word is (R55). -/
theorem cmdWord_eq_ofNat (op : BitVec 4) (a : Addr7) (r : Byte) (n : Index) :
    cmdWord op a r n = BitVec.ofNat 32 (op.toNat * 2 ^ 28 + a.toNat * 2 ^ 20 + r.toNat * 2 ^ 12 + n.toNat) := by
  apply BitVec.eq_of_toNat_eq
  have hnat : (cmdWord op a r n).toNat = op.toNat * 2 ^ 28 + a.toNat * 2 ^ 20 + r.toNat * 2 ^ 12 + n.toNat := by
    show (op ++ 0#1 ++ a ++ r ++ n : BitVec (4 + 1 + 7 + 8 + 12)).toNat = _
    simp only [toNat_append_eq_mul_add, BitVec.toNat_ofNat]
    omega
  rw [BitVec.toNat_ofNat, ← hnat, Nat.mod_eq_of_lt (cmdWord op a r n).isLt]

/-- The word of operands in range (R61). -/
theorem cmdWord_ofNat {op : BitVec 4} {k a r n : Nat} (hop : op.toNat * 2 ^ 28 = k)
    (h : a < 128 ∧ r < 256 ∧ n < 4096) :
    cmdWord op (BitVec.ofNat 7 a) (BitVec.ofNat 8 r) (BitVec.ofNat 12 n) =
      BitVec.ofNat 32 (k + a * 2 ^ 20 + r * 2 ^ 12 + n) := by
  obtain ⟨ha, hr, hn⟩ := h
  rw [cmdWord_eq_ofNat, hop, BitVec.toNat_ofNat, BitVec.toNat_ofNat, BitVec.toNat_ofNat, Nat.mod_eq_of_lt ha,
    Nat.mod_eq_of_lt hr, Nat.mod_eq_of_lt hn]

/-- The operands of WRITE and of READ are all in range, or the form is an assembly error (R61). -/
theorem inRange_operands {α : Type} (f : Addr7 → Byte → Nat → α) (a r n : Nat) :
    (do return f (BitVec.ofNat 7 (← inRange 128 a)) (BitVec.ofNat 8 (← inRange 256 r)) (← inRange 4096 n)) =
      if a < 128 ∧ r < 256 ∧ n < 4096 then some (f (BitVec.ofNat 7 a) (BitVec.ofNat 8 r) n) else none := by
  by_cases ha : a < 128
  · by_cases hr : r < 256
    · by_cases hn : n < 4096 <;> simp [inRange, ha, hr, hn]
    · simp [inRange, ha, hr]
  · simp [inRange, ha]

/-- Settles O8: a form in range is encoded by its fields, which are the digits of the word's number. -/
theorem assemblerFormsOfCommands : Obligations.AssemblerFormsOfCommands := by
  intro a r n
  have hwrite : (Asm.write a r n).instr? = _ := inRange_operands Instr.write a r n
  have hread : (Asm.read a r n).instr? = _ := inRange_operands Instr.read a r n
  refine ⟨by decide, ?_, ?_, ?_⟩
  · rw [assemble, hwrite]
    split
    case isTrue h => rw [Option.map_some, encode, cmdWord_ofNat (k := 0x20000000) rfl h]
    case isFalse => rfl
  · rw [assemble, hread]
    split
    case isTrue h => rw [Option.map_some, encode, cmdWord_ofNat (k := 0x30000000) rfl h]
    case isFalse => rfl
  · by_cases ha : a < 128
    · have hword := cmdWord_ofNat (op := 0x4#4) (r := 0) (n := 0) rfl ⟨ha, by decide, by decide⟩
      simp [assemble, Asm.instr?, inRange, ha, encode, hword]
    · simp [assemble, Asm.instr?, inRange, ha]

/-! ## Words that are no instruction -/

/-- Settles O54: the step takes the word, and the decoder has rejected it. -/
theorem unknownMicroOperationIsRefused : Obligations.UnknownMicroOperationIsRefused := by
  intro s w rest e htake hdec
  rw [step_of_taking s _ rest htake, takeWord, decode, hdec]
  rfl

/-- The step that takes an illegal command word answers it at the machine's pace (R103). -/
theorem step_of_taking_illegal {s : State} {w : BitVec 32} {rest : List PortWord} {e : DecodeError}
    (h : Taking s (.cmd w) rest) (hdec : decodeCmd w = .rejected e) :
    step s = takeBadWord (.cmd w) { s with inbox := rest } := by
  rw [step_of_taking s _ rest h, takeWord, decode, hdec]

/-- An illegal word, answered, leaves its mark on `STATUS`, the trace and `UPC` only (R103). -/
theorem finish_startIllegal (s : State) (hb : s.busy = false) (ht : s.todo = []) :
    s.startIllegal.finish = { s with status := .illegal, trace := [.rsp .illegal], upc := 1 } := by
  rw [State.startIllegal, State.start, finish_settle, run_cons _ _ _ (by simp), run_nil]
  simp [State.accept, Act.apply, State.respond, State.emit, ht, hb]

/-- At the event pace the answer is one event more (R13). -/
theorem core_run_startIllegal (s : State) (hp : EventPaced s) :
    Host.Core.run Sys2Proof.core 1 s.startIllegal = .next s.startIllegal.finish := by
  obtain ⟨k, hupc, hrun⟩ := settle_finishesByEvents [.respond .illegal] s.accept hp rfl rfl
  obtain rfl : 1 = k := Nat.add_left_cancel hupc
  exact hrun

/-- Settles O29: at either pace the word's answer is run to its end. -/
theorem illegalWordIsAnswered : Obligations.IllegalWordIsAnswered := by
  intro s w rest e htake htodo hdec
  have hstep := step_of_taking_illegal htake hdec
  obtain ⟨hcfg, hrst, hb, -⟩ := htake
  have hend := finish_startIllegal { s with inbox := rest } hb htodo
  refine ⟨fun hpace => ?_, fun hpace => ?_⟩
  · have hwhole : takeBadWord (.cmd w) { s with inbox := rest } =
        .next (State.startIllegal { s with inbox := rest }).finish := by
      simp only [takeBadWord, hpace]
    rw [hstep, hwhole, hend]
  · have hevent : takeBadWord (.cmd w) { s with inbox := rest } =
        .next (State.startIllegal { s with inbox := rest }) := by
      simp only [takeBadWord, hpace]
    exact ((core_run_succ 1 s _ (hstep.trans hevent)).trans (core_run_startIllegal _ ⟨hcfg, hrst, hpace⟩)).trans
      (congrArg Host.Outcome.next hend)

/-! ## Platform calls -/

/-- Every delay of the trace lasts `T_HALF`. -/
def DelaysHalfPeriods (s : State) : Prop := ∀ n, Event.d n ∈ s.trace → n = s.cfg.tHalf

/-- A state that has the configuration and, but for one event more, the trace. -/
theorem DelaysHalfPeriods.of_emit {s t : State} {e : Event} (h : DelaysHalfPeriods s) (hcfg : t.cfg = s.cfg)
    (htrace : t.trace = s.trace ++ [e]) (he : ∀ n, e = .d n → n = s.cfg.tHalf) : DelaysHalfPeriods t := by
  intro n hn
  rw [htrace, List.mem_append, List.mem_singleton] at hn
  rw [hcfg]
  rcases hn with hn | hn
  · exact h n hn
  · exact he n hn.symm

/-- The sequencer delays by `T_HALF` only (R65(e)). -/
theorem apply_delaysHalfPeriods (a : Act) (s : State) (h : DelaysHalfPeriods s) : DelaysHalfPeriods (a.apply s) := by
  cases a
  case cfg p => cases p <;> exact h.of_emit rfl rfl (by simp)
  case write p l => cases p <;> exact h.of_emit rfl rfl (by simp)
  case delay => exact h.of_emit rfl rfl (by simp)
  case writeTopBit | sample | load | store | respond | respondAck => exact h.of_emit rfl rfl (by simp)
  all_goals exact h

theorem applyAll_delaysHalfPeriods (l : List Act) (s : State) (h : DelaysHalfPeriods s) :
    DelaysHalfPeriods (applyAll l s) := by
  induction l generalizing s with
  | nil => exact h
  | cons a l ih => exact ih _ (apply_delaysHalfPeriods a s h)

theorem run_delaysHalfPeriods (l : List Act) (s : State) (h : DelaysHalfPeriods s) : DelaysHalfPeriods (run l s) := by
  induction l generalizing s with
  | nil => exact h
  | cons a l ih =>
    rw [run]
    split
    · exact applyAll_delaysHalfPeriods _ _ h
    · exact ih _ (apply_delaysHalfPeriods a s h)

theorem pinId_mem (c : Config) (p : Pin) : pinId c p ∈ [c.sclPin, c.sdaPin] := by cases p <;> simp [pinId]

/-- Settles O37: each event makes one call, on a pin of the configuration, and no action delays by anything else. -/
theorem platformCallsOfACommand : Obligations.PlatformCallsOfACommand := by
  intro s i hc _ _
  obtain ⟨op, a, r, n, hrun⟩ := exec_eq_run_bodyOf i hc s
  obtain ⟨-, -, -, -, -, hcfg, -, -⟩ := run_sameOutside (s.bodyOf i) (s.begun op a r n)
  have hdelays := run_delaysHalfPeriods (s.bodyOf i) (s.begun op a r n) (by simp [DelaysHalfPeriods, State.begun])
  refine ⟨_, hrun, fun c hcall => ?_⟩
  obtain ⟨e, he, hcall⟩ := List.mem_filterMap.mp hcall
  cases e <;> simp only [platformCall, Option.some.injEq, reduceCtorEq] at hcall <;> subst hcall
  case cfg p => exact .inl ⟨_, pinId_mem _ p, .inl rfl⟩
  case w p l => exact .inl ⟨_, pinId_mem _ p, .inr ⟨l, rfl⟩⟩
  case r l => exact .inr (.inl ⟨l, rfl⟩)
  case d m =>
    have hm : m = s.cfg.tHalf := (hdelays m he).trans (congrArg Config.tHalf hcfg)
    exact .inr (.inr (congrArg _ hm))

/-! ## The frame on the wire -/

/-- Run from the clock LOW between two byte frames, the events put these items on the wire, and end likewise. -/
def Frames (es : List Event) (items : List FrameItem) : Prop :=
  ∀ (sda : Bool) (rest : List Event), ∃ sda',
    frameFrom [] (wireFrom false sda none (es ++ rest)) = items ++ frameFrom [] (wireFrom false sda' none rest)

theorem Frames.nil : Frames [] [] := fun sda _ => ⟨sda, rfl⟩

theorem Frames.append {es fs : List Event} {xs ys : List FrameItem} (h : Frames es xs) (k : Frames fs ys) :
    Frames (es ++ fs) (xs ++ ys) := by
  intro sda rest
  obtain ⟨sda1, h1⟩ := h sda (fs ++ rest)
  obtain ⟨sda2, h2⟩ := k sda1 rest
  exact ⟨sda2, by rw [List.append_assoc, h1, h2, List.append_assoc]⟩

theorem Frames.flatMap {α : Type} {f : α → List Event} {g : α → List FrameItem} (h : ∀ x, Frames (f x) (g x))
    (l : List α) : Frames (l.flatMap f) (l.flatMap g) := by
  induction l with
  | nil => exact .nil
  | cons x l ih => exact (h x).append ih

/-- Events that put one item each. -/
theorem Frames.map {α : Type} {f : α → List Event} {g : α → FrameItem} (h : ∀ x, Frames (f x) [g x]) (l : List α) :
    Frames (l.flatMap f) (l.map g) := by
  rw [List.map_eq_flatMap]
  exact .flatMap h l

/-- A repeated START (R47). -/
theorem frames_startTrace (t : BitVec 16) : Frames (startTrace t) [.start] := fun _ _ => ⟨false, rfl⟩

theorem frames_load (i : Index) (v : Byte) : Frames [.ld i v] [] := fun sda _ => ⟨sda, rfl⟩

theorem frames_store (i : Index) (v : Byte) : Frames [.st i v] [] := fun sda _ => ⟨sda, rfl⟩

/-- A bit the controller sends (R49, R68). -/
theorem wireFrom_bitTrace (t : BitVec 16) (b sda : Bool) (es : List Event) :
    wireFrom false sda none (bitTrace t b ++ es) = WireSym.sent b :: wireFrom false b none es := by
  cases b <;> rfl

/-- A bit the controller samples (R49, R69). -/
theorem wireFrom_sampleTrace (t : BitVec 16) (l : Level) (sda : Bool) (es : List Event) :
    wireFrom false sda none (sampleTrace t l ++ es) = WireSym.sampled l.bit :: wireFrom false true none es := rfl

theorem wireFrom_sampleTraces (t : BitVec 16) (ls : List Level) (es : List Event) :
    wireFrom false true none (ls.flatMap (sampleTrace t) ++ es) =
      ls.map (fun l => WireSym.sampled l.bit) ++ wireFrom false true none es := by
  induction ls with
  | nil => rfl
  | cons l ls ih =>
    rw [List.flatMap_cons, List.append_assoc, wireFrom_sampleTrace, ih]
    rfl

theorem wireFrom_byteTrace (t : BitVec 16) (v : Byte) (sda : Bool) (es : List Event) :
    wireFrom false sda none (byteTrace t v ++ es) =
      (msbFirst v).map WireSym.sent ++ wireFrom false (v.getLsbD 0) none es := by
  simp only [byteTrace, msbFirst, List.flatMap_cons, List.flatMap_nil, List.append_assoc, wireFrom_bitTrace,
    List.map_cons, List.map_nil, List.cons_append, List.nil_append]

/-- A bit cell, as against a START or a STOP (R49). -/
def IsCell (c : WireSym) : Prop := ∃ b, c = .sent b ∨ c = .sampled b

theorem frameFrom_cons_cell (cells : List WireSym) {c : WireSym} (hc : IsCell c) (cs : List WireSym) :
    frameFrom cells (c :: cs) =
      if cells.length = 8 then byteFrame cells c :: frameFrom [] cs else frameFrom (cells ++ [c]) cs := by
  obtain ⟨b, rfl | rfl⟩ := hc <;> rfl

/-- Eight cells and the acknowledgment are a byte frame (R49). -/
theorem frameFrom_byteFrame (cells new : List WireSym) {ack : WireSym} (cs : List WireSym)
    (hnew : ∀ c ∈ new, IsCell c) (hack : IsCell ack) (hlen : cells.length + new.length = 8) :
    frameFrom cells (new ++ ack :: cs) = byteFrame (cells ++ new) ack :: frameFrom [] cs := by
  induction new generalizing cells with
  | nil => rw [List.nil_append, List.append_nil, frameFrom_cons_cell _ hack, if_pos (by simpa using hlen)]
  | cons c new ih =>
    obtain ⟨hc, hnew⟩ := List.forall_mem_cons.mp hnew
    rw [List.length_cons] at hlen
    have hrest := ih (cells ++ [c]) hnew (by rw [List.length_append, List.length_singleton]; omega)
    rw [List.cons_append, frameFrom_cons_cell _ hc, if_neg (by omega), hrest, List.append_assoc, List.singleton_append]

theorem sentBits_map_sent (bits : List Bool) : sentBits (bits.map .sent) = some bits := by
  induction bits with
  | nil => rfl
  | cons b bits ih => rw [List.map_cons, sentBits, ih, Option.map_some]

theorem sampledBits_map_sampled (bits : List Bool) : sampledBits (bits.map .sampled) = some bits := by
  induction bits with
  | nil => rfl
  | cons b bits ih => rw [List.map_cons, sampledBits, ih, Option.map_some]

theorem byteFrame_sent (bits : List Bool) (k : Bool) :
    byteFrame (bits.map .sent) (.sampled k) = .sentByte (byteOfBits bits) (!k) := by
  simp only [byteFrame, sentBits_map_sent]

theorem byteFrame_sampled (bits : List Bool) (k : Bool) :
    byteFrame (bits.map .sampled) (.sent k) = .gotByte (byteOfBits bits) (!k) := by
  simp only [byteFrame, sampledBits_map_sampled]

/-- A transmitted byte and its acknowledgment (R49, R51, R81). -/
theorem frames_sendTrace (t : BitVec 16) (v : Byte) (l : Level) :
    Frames (sendTrace t v l) [.sentByte v (decide (l = .low))] := by
  intro sda rest
  have hcells : ∀ c ∈ (msbFirst v).map .sent, IsCell c := List.forall_mem_map.mpr fun b _ => ⟨b, .inl rfl⟩
  have hack : (!l.bit) = decide (l = .low) := by cases l <;> rfl
  refine ⟨true, ?_⟩
  rw [sendTrace, List.append_assoc, wireFrom_byteTrace, wireFrom_sampleTrace,
    frameFrom_byteFrame [] _ _ hcells ⟨_, .inr rfl⟩ rfl, List.nil_append, byteFrame_sent, byteOfBits_msbFirst, hack]
  rfl

/-- A received byte and its acknowledgment (R49, R51, R77). -/
theorem frames_receiveTrace (t : BitVec 16) (ls : List Level) (a : Bool) (hlen : ls.length = 8) :
    Frames (receiveTrace t ls a) [.gotByte (byteOfBits (ls.map Level.bit)) a] := by
  intro sda rest
  have hcells : ∀ c ∈ (ls.map Level.bit).map .sampled, IsCell c :=
    List.forall_mem_map.mpr fun b _ => ⟨b, .inr rfl⟩
  have hwire : wireFrom false sda none (receiveTrace t ls a ++ rest) =
      (ls.map Level.bit).map .sampled ++ .sent (!a) :: wireFrom false (!a) none rest := by
    rw [receiveTrace, List.cons_append, List.cons_append, List.append_assoc, ← wireFrom_bitTrace t (!a) true,
      List.map_map]
    exact wireFrom_sampleTraces t ls _
  refine ⟨!a, ?_⟩
  rw [hwire, frameFrom_byteFrame [] _ _ hcells ⟨_, .inl rfl⟩ (by simpa using hlen), List.nil_append,
    byteFrame_sampled, Bool.not_not]
  rfl

/-- From START on an idle bus to the STOP before the response (R47, R48). -/
theorem frame_of_frames {es : List Event} {items : List FrameItem} (h : Frames es items) (t : BitVec 16) (st : Status) :
    frame (startTrace t ++ (es ++ (stopTrace t ++ [.rsp st]))) = FrameItem.start :: items ++ [FrameItem.stop] := by
  obtain ⟨sda, hes⟩ := h false (stopTrace t ++ [.rsp st])
  have hstart (fs : List Event) : wire (startTrace t ++ fs) = .start :: wireFrom false false none fs := rfl
  have hstop : frameFrom [] (wireFrom false sda none (stopTrace t ++ [.rsp st])) = [.stop] := rfl
  rw [frame, hstart, frameFrom, hes, hstop, List.cons_append]

/-- The byte WRITE transmits (R86). -/
theorem frames_writeByteTrace (s : State) (a : Addr7) (r : Byte) (l : Level) (j : Nat) :
    Frames (writeByteTrace s a r l j) [.sentByte (sentByWrite s a r j) (decide (l = .low))] := by
  match j with
  | 0 | 1 => exact frames_sendTrace _ _ l
  | i + 2 => exact (frames_load _ _).append (frames_sendTrace _ _ l)

/-- WRITE's transmitted bytes, all acknowledged. -/
theorem frames_writeTraces (s : State) (a : Addr7) (r : Byte) (k : Nat) :
    Frames ((List.range k).flatMap (writeByteTrace s a r .low))
      ((List.range k).map fun j => .sentByte (sentByWrite s a r j) true) :=
  .map (frames_writeByteTrace s a r .low) _

/-- The byte READ receives (R89). -/
theorem frames_readByteTrace (s : State) (n i : Nat) :
    Frames (readByteTrace s n i) [.gotByte (s.byteRead (3 + 8 * i)) (decide (i + 1 < n))] :=
  (frames_receiveTrace _ _ _ (by simp [State.answers])).append (frames_store _ _)

theorem frame_writeBody_acked (a : Addr7) (r : Byte) (n : Nat) (s : State) (hs : s.trace = []) (hn : n < 4096)
    (h : AllAcked s (n + 2)) :
    frame (run (writeBody a r n) s).trace =
      FrameItem.start :: (List.range (n + 2)).map (fun j => FrameItem.sentByte (sentByWrite s a r j) true) ++
        [FrameItem.stop] := by
  have hframe := frame_of_frames (frames_writeTraces s a r (n + 2)) s.cfg.tHalf .ok
  rw [run_writeBody_acked a r n s hn h, hs]
  simp only [writeTrace, List.nil_append, List.append_assoc]
  exact hframe

theorem frame_writeBody_nacked (a : Addr7) (r : Byte) (n k : Nat) (s : State) (hs : s.trace = []) (hn : n < 4096)
    (hk : k < n + 2) (h : FirstNack s k) :
    frame (run (writeBody a r n) s).trace =
      FrameItem.start :: (List.range k).map (fun j => FrameItem.sentByte (sentByWrite s a r j) true)
        ++ [FrameItem.sentByte (sentByWrite s a r k) false, FrameItem.stop] := by
  have hframe := frame_of_frames ((frames_writeTraces s a r k).append (frames_writeByteTrace s a r .high k))
    s.cfg.tHalf .nack
  rw [run_writeBody_nacked a r n k s hn hk h, hs]
  simp only [writeTrace, List.nil_append, List.append_assoc, List.cons_append] at hframe ⊢
  exact hframe

/-- What READ's `j`-th transmitted byte puts on the wire, acknowledged or not (R89). -/
def readSendItems (a : Addr7) (r : Byte) (acked : Bool) : Nat → List FrameItem
  | 0 => [.sentByte (addressByte a false) acked]
  | 1 => [.sentByte r acked]
  | _ => [.start, .sentByte (addressByte a true) acked]

theorem frames_readSendTrace (s : State) (a : Addr7) (r : Byte) (l : Level) (j : Nat) :
    Frames (readSendTrace s a r l j) (readSendItems a r (decide (l = .low)) j) := by
  match j with
  | 0 | 1 => exact frames_sendTrace _ _ l
  | _ + 2 => exact (frames_startTrace _).append (frames_sendTrace _ _ l)

theorem frame_readBody_acked (a : Addr7) (r : Byte) (n : Nat) (s : State) (hs : s.trace = []) (hn : n < 4096)
    (h : AllAcked s 3) :
    frame (run (readBody a r n) s).trace =
      FrameItem.start :: ((List.range 3).flatMap (readSendItems a r true) ++
        (List.range n).map fun i => FrameItem.gotByte (s.byteRead (3 + 8 * i)) (decide (i + 1 < n))) ++
          [FrameItem.stop] := by
  have hsent := Frames.flatMap (frames_readSendTrace s a r .low) (List.range 3)
  have hgot := Frames.map (frames_readByteTrace s n) (List.range n)
  have hframe := frame_of_frames (hsent.append hgot) s.cfg.tHalf .ok
  rw [run_readBody_acked a r n s hn h, hs]
  simp only [readTrace, List.nil_append, List.append_assoc] at hframe ⊢
  exact hframe

theorem frame_readBody_nacked (a : Addr7) (r : Byte) (n k : Nat) (s : State) (hs : s.trace = []) (hk : k < 3)
    (h : FirstNack s k) :
    frame (run (readBody a r n) s).trace =
      FrameItem.start :: ((List.range k).flatMap (readSendItems a r true) ++ readSendItems a r false k) ++
        [FrameItem.stop] := by
  have hsent := Frames.flatMap (frames_readSendTrace s a r .low) (List.range k)
  have hframe := frame_of_frames (hsent.append (frames_readSendTrace s a r .high k)) s.cfg.tHalf .nack
  rw [run_readBody_nacked a r n k s hk h, hs]
  simp only [readTrace, List.nil_append, List.append_assoc] at hframe ⊢
  exact hframe

theorem frame_probeBody (a : Addr7) (s : State) (hs : s.trace = []) :
    frame (run (probeBody a) s).trace =
      [FrameItem.start, FrameItem.sentByte (addressByte a false) (decide (s.answer 0 = .low)), FrameItem.stop] := by
  rw [run_probeBody, hs]
  simp only [List.nil_append, List.append_assoc]
  exact frame_of_frames (frames_sendTrace _ _ _) _ _

/-- Settles O39: outcome by outcome, between START and STOP each part of the trace is the byte frames of R52's row. -/
theorem wireFrames : Obligations.WireFrames := by
  intro s a r n _ hi hn
  have hwrite := exec_write_run a r n s hi hn
  have hread := exec_read_run a r n s hi hn
  have hnack (k : Nat) (hk : k < 3) (h : FirstNack s k) :=
    frame_readBody_nacked a r n k (s.begun 0x3#4 a r (BitVec.ofNat 12 n)) rfl hk h
  refine ⟨fun h => ⟨_, hwrite, frame_writeBody_acked a r n _ rfl hn h⟩,
    fun k hk h => ⟨_, hwrite, frame_writeBody_nacked a r n k _ rfl hn hk h⟩,
    fun h => ⟨_, hread, frame_readBody_acked a r n _ rfl hn h⟩, fun h => ⟨_, hread, hnack 0 (by omega) h⟩,
    fun h => ⟨_, hread, hnack 1 (by omega) h⟩, fun h => ⟨_, hread, hnack 2 (by omega) h⟩,
    ⟨_, exec_probe_run a s hi, frame_probeBody a _ rfl⟩⟩

end Sys2Proof.Machine
end

section
/-! SUPPORT. Proofs of the statements of 40_signal_primitives.md: the state each micro-operation ends in, what it leaves
alone, and a run at another half-period. -/

namespace Sys2Proof.Machine

/-! ## The state a micro-operation ends in -/

theorem runUopClockLow_of_low {s : State} (hlow : s.sclOut = false) (acts : List Act) :
    runUopClockLow acts s = .next (run acts s) := by
  simp [runUopClockLow, hlow]

/-- With the clock LOW, which START does not ask for, a micro-operation runs its actions (R131). -/
theorem exec_uop_of_low (i : Instr) (hc : i.isCommand = false) {s : State} (hlow : i ≠ .start → s.sclOut = false) :
    exec i s = .next (run (uopActs i) s) := by
  cases i
  case start => rfl
  case stop | txbit | rxbit | txbyte | rxbyte | wack => exact runUopClockLow_of_low (hlow (by simp)) _
  case init | write | read | probe => cases hc

/-- What each micro-operation writes (R66 to R69, R76, R77, R79). -/
def State.afterUop (s : State) : Instr → State
  | .start => { s with
      sclOut := false, sdaOut := false, phase := .started,
      trace := s.trace ++ startTrace s.cfg.tHalf, upc := s.upc + 6 }
  | .stop => { s with
      sclOut := true, sdaOut := true, phase := .stopped,
      trace := s.trace ++ stopTrace s.cfg.tHalf, upc := s.upc + 6 }
  | .txbit b => { s with
      sclOut := false, sdaOut := b,
      trace := s.trace ++ bitTrace s.cfg.tHalf b, upc := s.upc + 5 }
  | .rxbit => { s with
      sclOut := false, sdaOut := true, rxbit := decide (s.answer 0 = .high),
      script := s.script.drop 1, reads := s.reads + 1,
      trace := s.trace ++ sampleTrace s.cfg.tHalf (s.answer 0), upc := s.upc + 5 }
  | .txbyte v => { s with
      sclOut := false, sdaOut := v.getLsbD 0, shr := 0#8, bitcnt := 8#4,
      trace := s.trace ++ byteTrace s.cfg.tHalf v, upc := s.upc + 40 }
  | .rxbyte a => { s with
      sclOut := false, sdaOut := !a, shr := s.byteRead 0, bitcnt := 8#4, rxbit := decide (s.answer 7 = .high),
      script := s.script.drop 8, reads := s.reads + 8,
      trace := s.trace ++ receiveTrace s.cfg.tHalf (s.answers 0 8) a, upc := s.upc + 46 }
  | .wack => { s with
      sclOut := false, sdaOut := true, ackf := decide (s.answer 0 = .low), rxbit := decide (s.answer 0 = .high),
      script := s.script.drop 1, reads := s.reads + 1,
      trace := s.trace ++ sampleTrace s.cfg.tHalf (s.answer 0), upc := s.upc + 5 }
  | .init | .write _ _ _ | .read _ _ _ | .probe _ => s

theorem bnot_bit_eq_decide_low (l : Level) : (!l.bit) = decide (l = .low) := by cases l <;> rfl

theorem run_uopActs (i : Instr) {s : State} (hlow : i ≠ .start → s.sclOut = false) :
    run (uopActs i) s = s.afterUop i := by
  rw [← List.append_nil (uopActs i)]
  cases i
  case start => exact run_startActs s []
  case stop => exact run_stopActs s []
  case txbit b => exact run_txbitActs b s []
  case rxbit => rw [uopActs, run_rxbitActs, bit_eq_decide_high, ← List.drop_one]; rfl
  case txbyte v => exact run_txbyteActs v s []
  case rxbyte a => rw [uopActs, run_rxbyteActs a s [] (hlow (by simp)), bit_eq_decide_high]; rfl
  case wack => rw [uopActs, run_wackActs, bnot_bit_eq_decide_low, bit_eq_decide_high, ← List.drop_one]; rfl
  case init | write | read | probe => rfl

theorem exec_uop (i : Instr) (hc : i.isCommand = false) {s : State} (hlow : i ≠ .start → s.sclOut = false) :
    exec i s = .next (s.afterUop i) := by
  rw [exec_uop_of_low i hc hlow, run_uopActs i hlow]

/-- Settles O11: START runs from any latches, and its word is fixed. -/
theorem startEvents : Obligations.StartEvents :=
  ⟨rfl, fun _ _ => exec_uop .start rfl (absurd rfl)⟩

/-- Settles O13: with the clock LOW, STOP runs its actions. -/
theorem stopEvents : Obligations.StopEvents :=
  ⟨rfl, fun _ hlow => exec_uop .stop rfl fun _ => hlow⟩

/-- Settles O14: with the clock LOW, TXBIT runs its actions, whichever the bit. -/
theorem txbitEvents : Obligations.TxbitEvents :=
  ⟨⟨rfl, rfl⟩, fun b _ hlow => exec_uop (.txbit b) rfl fun _ => hlow⟩

/-- Settles O15: with the clock LOW, RXBIT runs its actions, and the data latch released lets the answer through. -/
theorem rxbitEvents : Obligations.RxbitEvents :=
  ⟨rfl, fun _ hlow => exec_uop .rxbit rfl fun _ => hlow⟩

/-! ## What a micro-operation leaves alone -/

/-- The fields some micro-operation writes; every other is as it was (R65, R75). -/
theorem afterUop_frame (s : State) (i : Instr) :
    s.afterUop i = { s with
      sclOut := (s.afterUop i).sclOut, sdaOut := (s.afterUop i).sdaOut, phase := (s.afterUop i).phase,
      ackf := (s.afterUop i).ackf, shr := (s.afterUop i).shr, bitcnt := (s.afterUop i).bitcnt,
      rxbit := (s.afterUop i).rxbit, script := (s.afterUop i).script, reads := (s.afterUop i).reads,
      upc := (s.afterUop i).upc, trace := (s.afterUop i).trace } := by
  cases i <;> rfl

/-- Only START and STOP write `PHASE`. -/
theorem afterUop_phase (s : State) (i : Instr) (hstart : i ≠ .start) (hstop : i ≠ .stop) :
    (s.afterUop i).phase = s.phase := by
  cases i
  case start => exact absurd rfl hstart
  case stop => exact absurd rfl hstop
  all_goals rfl

/-- Only WACK writes `ACKF`. -/
theorem afterUop_ackf (s : State) (i : Instr) (hwack : i ≠ .wack) : (s.afterUop i).ackf = s.ackf := by
  cases i
  case wack => exact absurd rfl hwack
  all_goals rfl

/-- Only TXBYTE and RXBYTE write `SHR` and `BITCNT`. -/
theorem afterUop_shr_bitcnt (s : State) (i : Instr) (htx : ∀ v, i ≠ .txbyte v) (hrx : ∀ a, i ≠ .rxbyte a) :
    (s.afterUop i).shr = s.shr ∧ (s.afterUop i).bitcnt = s.bitcnt := by
  cases i
  case txbyte v => exact absurd rfl (htx v)
  case rxbyte a => exact absurd rfl (hrx a)
  all_goals exact ⟨rfl, rfl⟩

/-- Only RXBIT, RXBYTE and WACK take an answer. -/
theorem afterUop_answers (s : State) (i : Instr) (hbit : i ≠ .rxbit) (hwack : i ≠ .wack)
    (hbyte : ∀ a, i ≠ .rxbyte a) :
    (s.afterUop i).rxbit = s.rxbit ∧ (s.afterUop i).script = s.script ∧ (s.afterUop i).reads = s.reads := by
  cases i
  case rxbit => exact absurd rfl hbit
  case wack => exact absurd rfl hwack
  case rxbyte a => exact absurd rfl (hbyte a)
  all_goals exact ⟨rfl, rfl, rfl⟩

theorem isPlatform_receiveTrace (t : BitVec 16) (ls : List Level) (a : Bool) :
    (receiveTrace t ls a).all Event.isPlatform = true := by
  have hsamples : (ls.flatMap (sampleTrace t)).all Event.isPlatform = true :=
    List.all_flatMap.trans (List.all_eq_true.mpr fun _ _ => rfl)
  rw [receiveTrace, List.all_append, List.all_cons, hsamples]
  rfl

/-- A micro-operation emits platform events only. -/
theorem afterUop_trace (s : State) (i : Instr) :
    ∃ es, (s.afterUop i).trace = s.trace ++ es ∧ es.all Event.isPlatform = true := by
  cases i
  case rxbyte a => exact ⟨_, rfl, isPlatform_receiveTrace _ _ a⟩
  case start | stop | txbit | rxbit | txbyte | wack => exact ⟨_, rfl, rfl⟩
  case init | write | read | probe => exact ⟨[], (List.append_nil _).symm, rfl⟩

/-- Settles O21: the micro-operation has run its actions, and each field is written by those named or by none. -/
theorem microOperationFrame : Obligations.MicroOperationFrame := by
  intro s t i hc h
  obtain ⟨hrun, hlow⟩ := exec_uop_next i hc h
  obtain rfl : t = s.afterUop i := hrun.trans (run_uopActs i hlow)
  have keeps {α : Type} (f : State → α) := congrArg f (afterUop_frame s i)
  exact ⟨keeps State.cfg, keeps State.sclMode, keeps State.sdaMode, keeps State.inited, keeps State.busy,
    keeps State.status, keeps State.idx, keeps State.op, keeps State.addr7, keeps State.reg8, keeps State.len,
    keeps State.todo, keeps State.inbox, keeps State.rstFor, keeps State.pace,
    afterUop_phase s i, afterUop_ackf s i, afterUop_shr_bitcnt s i, afterUop_answers s i,
    fun x => keeps (·.txbuf.get x), fun x => keeps (·.rxbuf.get x), afterUop_trace s i⟩

/-! ## Another half-period -/

/-- `s` with another half-period and another trace. -/
def State.withHalfPeriod (s : State) (h : BitVec 16) (es : List Event) : State :=
  { s with cfg := { s.cfg with tHalf := h }, trace := es }

/-- `u` is `s` at the half-period `h`, the two traces equal but for the arguments of their delays. -/
def AtHalfPeriod (h : BitVec 16) (s u : State) : Prop :=
  ∃ es, u = s.withHalfPeriod h es ∧ es.map Event.withoutDelay = s.trace.map Event.withoutDelay

/-- An action does in `u` what it does in `s`, a delay excepted, which has another argument. -/
theorem apply_atHalfPeriod {h : BitVec 16} {s u : State} (a : Act) (hu : AtHalfPeriod h s u) :
    AtHalfPeriod h (a.apply s) (a.apply u) := by
  obtain ⟨es, rfl, hes⟩ := hu
  have hemit (e e' : Event) (he : e.withoutDelay = e'.withoutDelay) :
      (es ++ [e]).map Event.withoutDelay = (s.trace ++ [e']).map Event.withoutDelay := by
    simp [hes, he]
  cases a
  case delay => exact ⟨_, rfl, hemit (.d h) (.d s.cfg.tHalf) rfl⟩
  case cfg p => cases p <;> exact ⟨_, rfl, hemit _ _ rfl⟩
  case write p l => cases p <;> exact ⟨_, rfl, hemit _ _ rfl⟩
  case writeTopBit | sample | load | store | respond | respondAck => exact ⟨_, rfl, hemit _ _ rfl⟩
  all_goals exact ⟨es, rfl, hes⟩

theorem applyAll_atHalfPeriod {h : BitVec 16} (l : List Act) {s u : State} (hu : AtHalfPeriod h s u) :
    AtHalfPeriod h (applyAll l s) (applyAll l u) := by
  induction l generalizing s u with
  | nil => exact hu
  | cons a l ih => exact ih (apply_atHalfPeriod a hu)

theorem AtHalfPeriod.ackf {h : BitVec 16} {s u : State} (hu : AtHalfPeriod h s u) : u.ackf = s.ackf := by
  obtain ⟨_, rfl, -⟩ := hu
  rfl

theorem AtHalfPeriod.sclOut {h : BitVec 16} {s u : State} (hu : AtHalfPeriod h s u) : u.sclOut = s.sclOut := by
  obtain ⟨_, rfl, -⟩ := hu
  rfl

theorem AtHalfPeriod.inited {h : BitVec 16} {s u : State} (hu : AtHalfPeriod h s u) : u.inited = s.inited := by
  obtain ⟨_, rfl, -⟩ := hu
  rfl

/-- Acceptance empties both traces. -/
theorem AtHalfPeriod.begun {h : BitVec 16} {s u : State} (hu : AtHalfPeriod h s u) (op : BitVec 4) (a : Addr7)
    (r : Byte) (n : Index) : AtHalfPeriod h (s.begun op a r n) (u.begun op a r n) := by
  obtain ⟨_, rfl, -⟩ := hu
  exact ⟨[], rfl, rfl⟩

/-- An abort test comes out alike, since no half-period reaches `ACKF`. -/
theorem run_atHalfPeriod {h : BitVec 16} (l : List Act) {s u : State} (hu : AtHalfPeriod h s u) :
    AtHalfPeriod h (run l s) (run l u) := by
  induction l generalizing s u with
  | nil => exact hu
  | cons a l ih =>
    rw [run, run, hu.ackf]
    split
    · exact applyAll_atHalfPeriod abortActs hu
    · exact ih (apply_atHalfPeriod a hu)

theorem exec_atHalfPeriod {h : BitVec 16} {i : Instr} {s t u : State} (hu : AtHalfPeriod h s u)
    (hexec : exec i s = .next t) : ∃ v, exec i u = .next v ∧ AtHalfPeriod h t v := by
  cases hc : i.isCommand
  case true =>
    obtain ⟨op, a, r, n, hrun⟩ := exec_command_latches i hc
    obtain rfl : run (s.bodyOf i) (s.begun op a r n) = t := Host.Outcome.next.inj ((hrun s).symm.trans hexec)
    refine ⟨_, hrun u, ?_⟩
    rw [bodyOf_congr hu.inited]
    exact run_atHalfPeriod _ (hu.begun op a r n)
  case false =>
    obtain ⟨rfl, hlow⟩ := exec_uop_next i hc hexec
    exact ⟨_, exec_uop_of_low i hc fun hne => hu.sclOut.trans (hlow hne), run_atHalfPeriod _ hu⟩

/-- Settles O44: no action but the delay reads the half-period, and nothing reads the trace. -/
theorem halfPeriodIsOnlyAnArgument : Obligations.HalfPeriodIsOnlyAnArgument := by
  intro s t i h _ hexec
  obtain ⟨_, hrun, es, rfl, hes⟩ := exec_atHalfPeriod (h := h) ⟨s.trace, rfl, rfl⟩ hexec
  exact ⟨es, hrun, hes⟩

end Sys2Proof.Machine
end

section
/-! SUPPORT. Proofs of the statements of 41_byte_handshake.md: the bits of an assembled byte, and the state in which
TXBYTE, RXBYTE and WACK end. -/

namespace Sys2Proof.Machine

/-! ## The bits of an assembled byte -/

theorem getLsbD_shiftInBit_zero (v : Byte) (b : Bool) : (shiftInBit v b).getLsbD 0 = b := by
  cases b <;> simp [shiftInBit]

theorem getLsbD_shiftInBit_succ (v : Byte) (b : Bool) {i : Nat} (hi : i + 1 < 8) :
    (shiftInBit v b).getLsbD (i + 1) = v.getLsbD i := by
  have hbit : (if b then 1#8 else 0#8).getLsbD (i + 1) = false := by cases b <;> simp
  rw [shiftInBit, BitVec.getLsbD_or, hbit, Bool.or_false, BitVec.getLsbD_shiftLeft]
  simp [hi]

/-- The last bit shifted in is bit 0, the one before it bit 1, and so on upwards. -/
theorem getLsbD_byteOfBits (bits : List Bool) {i : Nat} (hi : i < 8) :
    (byteOfBits bits).getLsbD i = bits.reverse.getD i false := by
  induction bits using List.reverseRecOn generalizing i with
  | nil => simp [byteOfBits]
  | append_singleton bits b ih =>
    have hlast : byteOfBits (bits ++ [b]) = shiftInBit (byteOfBits bits) b := List.foldl_append
    rw [hlast, List.reverse_concat]
    cases i with
    | zero => exact getLsbD_shiftInBit_zero _ b
    | succ i => exact (getLsbD_shiftInBit_succ _ b hi).trans (ih (by omega))

/-- The first of the eight answers is in bit 7, the last in bit 0 (R77). -/
theorem getLsbD_byteRead (s : State) (k : Nat) {j : Nat} (hj : j < 8) :
    (s.byteRead k).getLsbD (7 - j) = decide (s.answer (k + j) = .high) := by
  have hindex : 8 - 1 - (7 - j) = j := by omega
  have hlen : 7 - j < ((s.answers k 8).map Level.bit).length := by simp [State.answers]; omega
  rw [State.byteRead, getLsbD_byteOfBits _ (by omega), List.getD_eq_getElem?_getD, List.getElem?_reverse hlen]
  simp [State.answers, hindex, hj, bit_eq_decide_high]

/-! ## TXBYTE, RXBYTE and WACK -/

/-- Settles O16: with the clock LOW, TXBYTE runs its actions, whichever the byte. -/
theorem txbyteEvents : Obligations.TxbyteEvents :=
  fun v _ => ⟨rfl, fun hlow => exec_uop (.txbyte v) rfl fun _ => hlow⟩

/-- Settles O17: with the clock LOW, RXBYTE runs its actions, and the byte is the one its eight answers assemble. -/
theorem rxbyteEvents : Obligations.RxbyteEvents := by
  refine ⟨⟨rfl, rfl⟩, fun a s hlow => ⟨s.byteRead 0, fun j hj => ?_, exec_uop (.rxbyte a) rfl fun _ => hlow⟩⟩
  rw [getLsbD_byteRead s 0 hj, Nat.zero_add]

/-- Settles O18: with the clock LOW, WACK runs its actions, and `ACKF` is the complement of the sampled bit. -/
theorem wackEvents : Obligations.WackEvents :=
  ⟨rfl, fun _ hlow => exec_uop .wack rfl fun _ => hlow⟩

end Sys2Proof.Machine
end

section
/-! SUPPORT. Proofs of the statements of 42_transactions.md: the state in which each command ends, the one response of a
command, its event counts, and a command as the program of its micro-operations. -/

namespace Sys2Proof.Machine

/-! ## A step, and the state in which each command ends -/

/-- Settles O45: the step takes the word, and at the whole pace its instruction is run. -/
theorem stepRunsTheDecodedInstruction : Obligations.StepRunsTheDecodedInstruction := by
  intro s w rest i htake hpace hdec
  rw [step_of_taking s w rest htake]
  simp only [takeWord, hdec, takeInstr, hpace]

/-- INIT is the run of its body, begun with the latches of its word (R83, R85). -/
theorem exec_init_run (s : State) : exec .init s = .next (run initBody (s.begun 0x1#4 0#7 0#8 0#12)) :=
  congrArg Host.Outcome.next (finish_settle initBody _)

/-- Settles O22: INIT runs its body, and its word is fixed. -/
theorem initReleasesTheLines : Obligations.InitReleasesTheLines := by
  refine ⟨by decide, fun s _ => ?_⟩
  rw [exec_init_run, run_initBody]
  rfl

/-- Settles O23: the run of WRITE's body, begun at acceptance. -/
theorem writeSendsEveryByte : Obligations.WriteSendsEveryByte := by
  intro s a r n _ hi hn h
  have hrun := run_writeBody_acked a r n (s.begun 0x2#4 a r (BitVec.ofNat 12 n)) hn h
  rw [exec_write_run a r n s hi hn, hrun]
  simp only [State.begun, Nat.zero_add, List.nil_append]
  rfl

/-- Settles O24: the run of WRITE's body up to its abort. -/
theorem writeAbortsAtFirstNack : Obligations.WriteAbortsAtFirstNack := by
  intro s a r n k _ hi hn hk h
  have hrun := run_writeBody_nacked a r n k (s.begun 0x2#4 a r (BitVec.ofNat 12 n)) hn hk h
  rw [exec_write_run a r n s hi hn, hrun]
  simp only [State.begun, Nat.zero_add, List.nil_append]
  rfl

/-- Settles O25: the run of READ's body, begun at acceptance. -/
theorem readFillsTheBuffer : Obligations.ReadFillsTheBuffer := by
  intro s a r n _ hi hn h
  have hrun := run_readBody_acked a r n (s.begun 0x3#4 a r (BitVec.ofNat 12 n)) hn h
  rw [exec_read_run a r n s hi hn, hrun, bit_eq_decide_high]
  simp only [State.begun, Nat.zero_add, List.nil_append]
  rfl

/-- Settles O26: the run of READ's body up to its abort, which comes before its data loop. -/
theorem readAbortsAtFirstNack : Obligations.ReadAbortsAtFirstNack := by
  intro s a r n k _ hi hn hk h
  have hrun := run_readBody_nacked a r n k (s.begun 0x3#4 a r (BitVec.ofNat 12 n)) hk h
  rw [exec_read_run a r n s hi hn, hrun]
  simp only [State.begun, Nat.zero_add, List.nil_append]
  rfl

theorem statusOfAck_bnot_bit (l : Level) : statusOfAck (!l.bit) = if l = .low then .ok else .nack := by
  cases l <;> rfl

/-- Settles O27: the run of PROBE's body, whichever the answer; its word is a number of its address (R55). -/
theorem probeAnswersTheAcknowledgment : Obligations.ProbeAnswersTheAcknowledgment := by
  intro s a _ hi
  refine ⟨?_, ?_⟩
  · simp [encode, cmdWord_eq_ofNat]
  · rw [exec_probe_run a s hi, run_probeBody, statusOfAck_bnot_bit, bnot_bit_eq_decide_low, bit_eq_decide_high]
    simp only [State.begun, Nat.zero_add, List.nil_append]
    rfl

/-! ## The trace of a run -/

/-- An action adds events to the trace, none of them a response unless it responds. -/
theorem apply_trace (a : Act) (s : State) :
    ∃ es, (a.apply s).trace = s.trace ++ es ∧ (a.isResponse = false → es.all (fun e => !e.isRsp) = true) := by
  cases a
  case cfg p => cases p <;> exact ⟨_, rfl, fun _ => rfl⟩
  case write p l => cases p <;> exact ⟨_, rfl, fun _ => rfl⟩
  case writeTopBit | delay | sample | load | store => exact ⟨_, rfl, fun _ => rfl⟩
  case respond | respondAck => exact ⟨_, rfl, fun h => absurd h (by simp [Act.isResponse])⟩
  all_goals exact ⟨[], (List.append_nil _).symm, fun _ => rfl⟩

/-- A response adds one event, of the status it leaves (R83). -/
theorem apply_response_trace (a : Act) (s : State) (h : a.isResponse = true) :
    (a.apply s).trace = s.trace ++ [.rsp (a.apply s).status] := by
  cases a <;> simp only [Act.isResponse, Bool.false_eq_true] at h <;> rfl

/-- The run of a position that ends in a response emits that one response, last (R83). -/
theorem run_endsInResponse_trace (l : List Act) (s : State) (h : endsInResponse l = true) :
    ∃ es, (run l s).trace = s.trace ++ es ++ [.rsp (run l s).status] ∧ es.all (fun e => !e.isRsp) = true := by
  induction l generalizing s with
  | nil => simp [endsInResponse] at h
  | cons a l ih =>
    rw [run]
    split
    · rw [applyAll_abortActs]
      exact ⟨stopTrace s.cfg.tHalf, rfl, rfl⟩
    · cases hr : a.isResponse
      case false =>
        obtain ⟨es, htrace, hes⟩ := apply_trace a s
        obtain ⟨fs, hrest, hfs⟩ := ih (a.apply s) (by simpa [endsInResponse, hr] using h)
        refine ⟨es ++ fs, by rw [hrest, htrace, List.append_assoc s.trace], ?_⟩
        rw [List.all_append, hes hr, hfs, Bool.and_self]
      case true =>
        obtain rfl : l = [] := by simpa [endsInResponse, hr] using h
        exact ⟨[], by rw [List.append_nil]; exact apply_response_trace a s hr, rfl⟩

/-- Settles O30: a command is the run of its body, which ends in a response. -/
theorem oneResponseEndsEachCommand : Obligations.OneResponseEndsEachCommand := by
  intro s i hc _ _
  obtain ⟨op, a, r, n, hrun⟩ := exec_eq_run_bodyOf i hc s
  have hbody := endsInResponse_bodyOf i hc s
  exact ⟨_, hrun, run_endsInResponse _ _ hbody, run_endsInResponse_trace _ (s.begun op a r n) hbody⟩

theorem applyAll_trace_isPrefix (l : List Act) (s : State) : s.trace <+: (applyAll l s).trace := by
  induction l generalizing s with
  | nil => exact ⟨[], List.append_nil _⟩
  | cons a l ih =>
    obtain ⟨es, htrace, -⟩ := apply_trace a s
    exact List.IsPrefix.trans ⟨es, htrace.symm⟩ (ih _)

/-- A run adds to the trace (R28). -/
theorem run_trace_isPrefix (l : List Act) (s : State) : s.trace <+: (run l s).trace := by
  induction l generalizing s with
  | nil => exact ⟨[], List.append_nil _⟩
  | cons a l ih =>
    rw [run]
    split
    · exact applyAll_trace_isPrefix _ _
    · obtain ⟨es, htrace, -⟩ := apply_trace a s
      exact List.IsPrefix.trans ⟨es, htrace.symm⟩ (ih _)

/-- START, the address byte in write direction and WACK, the read answered `l` (R93). -/
def openingTrace (t : BitVec 16) (a : Addr7) (l : Level) : List Event :=
  startTrace t ++ sendTrace t (addressByte a false) l

/-- READ's transmitted bytes, all acknowledged (R89). -/
theorem readTrace_three (s : State) (a : Addr7) (r : Byte) :
    readTrace s a r 3 = openingTrace s.cfg.tHalf a .low ++ (sendTrace s.cfg.tHalf r .low ++
      (startTrace s.cfg.tHalf ++ sendTrace s.cfg.tHalf (addressByte a true) .low)) := by
  simp [openingTrace, readTrace, readSendTrace, List.range_succ]

/-- The trace of a body that opens with START, TXBYTE and WACK, whatever follows them (R93). -/
theorem openingTrace_isPrefix (a : Addr7) (l : List Act) (s : State) (hs : s.trace = []) :
    openingTrace s.cfg.tHalf a (s.answer 0) <+:
      (run (startActs ++ (txbyteActs (addressByte a false) ++ (wackActs ++ l))) s).trace := by
  rw [run_startActs, run_txbyteActs, run_wackActs]
  refine List.IsPrefix.trans ?_ (run_trace_isPrefix _ _)
  simp [openingTrace, sendTrace, hs, answer_of_env s]

/-- Settles O41: the three bodies open alike. -/
theorem probeOpensLikeWriteAndRead : Obligations.ProbeOpensLikeWriteAndRead := by
  intro s a r n _ hi hn
  have hopen (op : BitVec 4) (b : Byte) (k : Index) (l : List Act) :
      openingTrace s.cfg.tHalf a (s.answer 0) <+:
        (run (startActs ++ (txbyteActs (addressByte a false) ++ (wackActs ++ l))) (s.begun op a b k)).trace :=
    openingTrace_isPrefix a l (s.begun op a b k) rfl
  refine ⟨openingTrace s.cfg.tHalf a (s.answer 0), rfl, rfl, rfl, ⟨_, exec_probe_run a s hi, ?_⟩,
    ⟨_, exec_write_run a r n s hi hn, ?_⟩, ⟨_, exec_read_run a r n s hi hn, ?_⟩⟩
  · simp only [probeBody, List.append_assoc]
    exact hopen ..
  · simp only [writeBody, addressActs, sendActs, List.append_assoc]
    exact hopen ..
  · simp only [readBody, addressActs, sendActs, List.append_assoc]
    exact hopen ..

/-! ## Before INIT -/

/-- Before INIT a command other than INIT is the run of its one response (R102). -/
theorem exec_run_noinit (i : Instr) (hc : i.isCommand = true) (hi : i ≠ .init) (s : State) (h : s.inited = false) :
    ∃ op a r n, exec i s = .next (run [.respond .noinit] (s.begun op a r n)) := by
  obtain ⟨op, a, r, n, hrun⟩ := exec_eq_run_bodyOf i hc s
  have hbody : s.bodyOf i = [.respond .noinit] := by
    cases i <;> simp only [Instr.isCommand, Bool.false_eq_true] at hc
    case init => exact absurd rfl hi
    case write | read | probe => simp [State.bodyOf, bodyOrNoInit, h]
  exact ⟨op, a, r, n, hbody ▸ hrun⟩

/-! ## The first byte not acknowledged -/

/-- Of the next `k` answers all are LOW, or there is a first that is HIGH. -/
theorem allAcked_or_firstNack (s : State) (k : Nat) : AllAcked s k ∨ ∃ j < k, FirstNack s j := by
  induction k with
  | zero => exact .inl fun _ h => absurd h (Nat.not_lt_zero _)
  | succ k ih =>
    rcases ih with hall | ⟨j, hj, hnack⟩
    · cases hk : s.answer k
      case low =>
        refine .inl fun j hj => ?_
        rcases Nat.lt_succ_iff_lt_or_eq.mp hj with hlt | rfl
        · exact hall j hlt
        · exact hk
      case high => exact .inr ⟨k, Nat.lt_succ_self k, hall, hk⟩
    · exact .inr ⟨j, Nat.lt_succ_of_lt hj, hnack⟩

theorem countP_isStore_eq_length_stores (es : List Event) : es.countP Event.isStore = (stores es).length := by
  induction es with
  | nil => rfl
  | cons e es ih => cases e <;> simp [stores, Event.isStore, List.countP_cons, ih]

/-- Settles O34: READ was refused before INIT, or one of its three transmitted bytes was, before its data loop. -/
theorem failedReadStoresNothing : Obligations.FailedReadStoresNothing := by
  intro s a r n _ hn
  cases hi : s.inited
  case false =>
    obtain ⟨op, a', r', n', hrun⟩ := exec_run_noinit (.read a r n) rfl (by simp) s hi
    exact ⟨_, hrun, fun _ => ⟨rfl, rfl⟩⟩
  case true =>
    refine ⟨_, exec_read_run a r n s hi hn, fun hstatus => ?_⟩
    rcases allAcked_or_firstNack (s.begun 0x3#4 a r (BitVec.ofNat 12 n)) 3 with hall | ⟨k, hk, hnack⟩
    · exact absurd (by rw [run_readBody_acked a r n _ hn hall]) hstatus
    · obtain ⟨-, hstores⟩ := accesses_readBody_nacked a r n k _ rfl hk hnack
      refine ⟨by rw [run_readBody_nacked a r n k _ hk hnack]; rfl, ?_⟩
      rw [countP_isStore_eq_length_stores, hstores]
      rfl

/-! ## Event counts -/

theorem eventCounts_append (es fs : List Event) :
    eventCounts (es ++ fs) = List.zipWith (· + ·) (eventCounts es) (eventCounts fs) := by
  simp [eventCounts]

/-- Lists of events in a row, of the same counts each. -/
theorem eventCounts_flatMap {α : Type} {f : α → List Event} {p d r l t : Nat}
    (h : ∀ x, eventCounts (f x) = [p, d, r, l, t]) (xs : List α) :
    eventCounts (xs.flatMap f) = [p * xs.length, d * xs.length, r * xs.length, l * xs.length, t * xs.length] := by
  induction xs with
  | nil => rfl
  | cons x xs ih =>
    rw [List.flatMap_cons, eventCounts_append, h, ih]
    simp [Nat.mul_succ, Nat.add_comm]

theorem eventCounts_startTrace (t : BitVec 16) : eventCounts (startTrace t) = [6, 2, 0, 0, 0] := rfl

/-- STOP and the response (R67, R83). -/
theorem eventCounts_stop_respond (t : BitVec 16) (st : Status) :
    eventCounts (stopTrace t ++ [.rsp st]) = [6, 3, 0, 0, 0] := rfl

/-- A transmitted byte and its acknowledgment (R81). -/
theorem eventCounts_sendTrace (t : BitVec 16) (v : Byte) (l : Level) :
    eventCounts (sendTrace t v l) = [45, 17, 1, 0, 0] := rfl

/-- A data byte of WRITE, acknowledged or not (R86). -/
theorem eventCounts_writeByteTrace_data (s : State) (a : Addr7) (r : Byte) (l : Level) (i : Nat) :
    eventCounts (writeByteTrace s a r l (i + 2)) = [45, 17, 1, 1, 0] := rfl

/-- WRITE up to `k` data bytes, all acknowledged (R86). -/
theorem eventCounts_writeTrace_data (s : State) (a : Addr7) (r : Byte) (k : Nat) :
    eventCounts (writeTrace s a r (k + 2)) = [96 + 45 * k, 36 + 17 * k, 2 + k, k, 0] := by
  induction k with
  | zero => rfl
  | succ k ih =>
    rw [Nat.add_right_comm, writeTrace_succ, eventCounts_append, ih, eventCounts_writeByteTrace_data]
    rfl

/-- A received byte and its acknowledgment (R77). -/
theorem eventCounts_receiveTrace (t : BitVec 16) (ls : List Level) (a : Bool) (hlen : ls.length = 8) :
    eventCounts (receiveTrace t ls a) = [46, 10, 8, 0, 0] := by
  have hrelease (es : List Event) : Event.w .sda .high :: es = [.w .sda .high] ++ es := rfl
  have hbit : eventCounts (bitTrace t (!a)) = [5, 2, 0, 0, 0] := rfl
  rw [receiveTrace, hrelease, eventCounts_append, eventCounts_append,
    eventCounts_flatMap (f := sampleTrace t) (fun _ => rfl), hbit, hlen]
  rfl

/-- A received byte and its store (R77, R89). -/
theorem eventCounts_readByteTrace (s : State) (n i : Nat) :
    eventCounts (readByteTrace s n i) = [46, 10, 8, 0, 1] := by
  rw [readByteTrace, eventCounts_append, eventCounts_receiveTrace _ _ _ (by simp [State.answers])]
  rfl

/-- READ's three transmitted bytes, with START and the repeated START (R89). -/
theorem eventCounts_readTrace (s : State) (a : Addr7) (r : Byte) :
    eventCounts (readTrace s a r 3) = [147, 55, 3, 0, 0] := by
  rw [readTrace_three, openingTrace]
  simp only [eventCounts_append, eventCounts_startTrace, eventCounts_sendTrace]
  rfl

/-! ## Event counts and status of every outcome -/

/-- The counts of a command's trace, and the status it leaves. -/
def EndsWith (counts : List Nat) (st : Status) (t : State) : Prop := eventCounts t.trace = counts ∧ t.status = st

/-- The counts where transmitted byte `k` is refused and no data byte has been sent: the address byte, the register byte,
or after READ's repeated START the address byte again (R97). -/
def nackCounts : Nat → List Nat
  | 0 => [57, 22, 1, 0, 0]
  | 1 => [102, 39, 2, 0, 0]
  | _ => [153, 58, 3, 0, 0]

section
variable (a : Addr7) (r : Byte) (n : Nat) (s : State) (hs : s.trace = [])
include hs

theorem endsWith_initBody : EndsWith [4, 0, 0, 0, 0] .ok (run initBody s) := by
  rw [run_initBody, hs]
  exact ⟨rfl, rfl⟩

/-- A word or a command refused at acceptance emits the response only (R102, R103). -/
theorem endsWith_respond (st : Status) : EndsWith [0, 0, 0, 0, 0] st (run [.respond st] s) := by
  refine ⟨?_, rfl⟩
  show eventCounts (s.trace ++ [.rsp st]) = _
  rw [hs]
  rfl

theorem endsWith_probeBody :
    EndsWith [57, 22, 1, 0, 0] (if s.answer 0 = .low then .ok else .nack) (run (probeBody a) s) := by
  rw [run_probeBody, hs, statusOfAck_bnot_bit]
  exact ⟨rfl, rfl⟩

theorem endsWith_writeBody_acked (hn : n < 4096) (h : AllAcked s (n + 2)) :
    EndsWith [102 + 45 * n, 39 + 17 * n, 2 + n, n, 0] .ok (run (writeBody a r n) s) := by
  rw [run_writeBody_acked a r n s hn h, hs, List.append_assoc, List.nil_append]
  refine ⟨?_, rfl⟩
  rw [eventCounts_append, eventCounts_writeTrace_data, eventCounts_stop_respond]
  simp only [List.zipWith_cons_cons, List.zipWith_nil_left, List.cons.injEq, and_true]
  omega

theorem endsWith_writeBody_nacked_address (hn : n < 4096) (k : Nat) (hk : k < 2) (h : FirstNack s k) :
    EndsWith (nackCounts k) .nack (run (writeBody a r n) s) := by
  rw [run_writeBody_nacked a r n k s hn (by omega) h, hs]
  match k with
  | 0 | 1 => exact ⟨rfl, rfl⟩

theorem endsWith_writeBody_nacked_data (hn : n < 4096) (k : Nat) (hk : k < n) (h : FirstNack s (k + 2)) :
    EndsWith [147 + 45 * k, 56 + 17 * k, 3 + k, k + 1, 0] .nack (run (writeBody a r n) s) := by
  rw [run_writeBody_nacked a r n (k + 2) s hn (by omega) h, hs, List.append_assoc, List.nil_append]
  refine ⟨?_, rfl⟩
  rw [eventCounts_append, eventCounts_append, eventCounts_writeTrace_data, eventCounts_writeByteTrace_data,
    eventCounts_stop_respond]
  simp only [List.zipWith_cons_cons, List.zipWith_nil_left, List.cons.injEq, and_true]
  omega

theorem endsWith_readBody_acked (hn : n < 4096) (h : AllAcked s 3) :
    EndsWith [153 + 46 * n, 58 + 10 * n, 3 + 8 * n, 0, n] .ok (run (readBody a r n) s) := by
  rw [run_readBody_acked a r n s hn h, hs, List.append_assoc, List.nil_append]
  refine ⟨?_, rfl⟩
  rw [eventCounts_append, eventCounts_append, eventCounts_readTrace,
    eventCounts_flatMap (eventCounts_readByteTrace s n), List.length_range, eventCounts_stop_respond]
  simp only [List.zipWith_cons_cons, List.zipWith_nil_left, List.cons.injEq, and_true]
  omega

theorem endsWith_readBody_nacked (k : Nat) (hk : k < 3) (h : FirstNack s k) :
    EndsWith (nackCounts k) .nack (run (readBody a r n) s) := by
  rw [run_readBody_nacked a r n k s hk h, hs]
  match k with
  | 0 | 1 | 2 => exact ⟨rfl, rfl⟩

end

theorem exec_noinit_endsWith (i : Instr) (hc : i.isCommand = true) (hi : i ≠ .init) (s : State)
    (h : s.inited = false) : Completes i s (EndsWith [0, 0, 0, 0, 0] .noinit) := by
  obtain ⟨op, a, r, n, hrun⟩ := exec_run_noinit i hc hi s h
  exact ⟨_, hrun, endsWith_respond _ rfl .noinit⟩

/-- A step that takes an illegal word at the whole pace answers it (R103). -/
theorem step_illegal_endsWith {s : State} {w : BitVec 32} {rest : List PortWord} {e : DecodeError}
    (htake : Taking s (.cmd w) rest) (hpace : s.pace = .whole) (hdec : decodeCmd w = .rejected e) :
    ∃ t, step s = .next t ∧ EndsWith [0, 0, 0, 0, 0] .illegal t := by
  refine ⟨(State.startIllegal { s with inbox := rest }).finish, ?_, ?_⟩
  · rw [step_of_taking_illegal htake hdec]
    simp only [takeBadWord, hpace]
  · rw [State.startIllegal, State.start, finish_settle]
    exact endsWith_respond _ rfl .illegal

/-- Settles O36: outcome by outcome, the counts are the sums of those of the parts of its trace. -/
theorem eventCountsOfEveryOutcome : Obligations.EventCountsOfEveryOutcome := by
  intro s a r n _ hn
  refine ⟨fun _ _ _ => step_illegal_endsWith, ⟨_, exec_init_run s, endsWith_initBody _ rfl⟩, fun hi => ?_, fun hi => ?_⟩
  · exact ⟨exec_noinit_endsWith _ rfl (by simp) s hi, exec_noinit_endsWith _ rfl (by simp) s hi,
      exec_noinit_endsWith _ rfl (by simp) s hi⟩
  · have hwrite := exec_write_run a r n s hi hn
    have hread := exec_read_run a r n s hi hn
    exact ⟨⟨_, exec_probe_run a s hi, endsWith_probeBody a _ rfl⟩,
      fun h => ⟨_, hwrite, endsWith_writeBody_acked a r n _ rfl hn h⟩,
      fun h => ⟨_, hwrite, endsWith_writeBody_nacked_address a r n _ rfl hn 0 (by omega) h⟩,
      fun h => ⟨_, hwrite, endsWith_writeBody_nacked_address a r n _ rfl hn 1 (by omega) h⟩,
      fun k hk h => ⟨_, hwrite, endsWith_writeBody_nacked_data a r n _ rfl hn k hk h⟩,
      fun h => ⟨_, hread, endsWith_readBody_acked a r n _ rfl hn h⟩,
      fun h => ⟨_, hread, endsWith_readBody_nacked a r n _ rfl 0 (by omega) h⟩,
      fun h => ⟨_, hread, endsWith_readBody_nacked a r n _ rfl 1 (by omega) h⟩,
      fun h => ⟨_, hread, endsWith_readBody_nacked a r n _ rfl 2 (by omega) h⟩⟩

/-! ## Micro-operations one after another -/

theorem execAll_append {is : List Instr} {s t : State} (h : execAll is s = .next t) (js : List Instr) :
    execAll (is ++ js) s = execAll js t := by
  induction is generalizing s with
  | nil => rw [← Host.Outcome.next.inj h, List.nil_append]
  | cons i is ih =>
    rw [List.cons_append, execAll]
    rw [execAll] at h
    cases hi : exec i s <;> simp only [hi, reduceCtorEq] at h
    exact ih h

theorem execAll_singleton {i : Instr} {s t : State} (h : exec i s = .next t) : execAll [i] s = .next t := by
  simp only [execAll, h]

/-- Executing `is` from `s` leads to `u`: the events `es` are emitted, `k` answers taken, the clock left LOW, and an
`ACKF` that is set stays set. -/
structure Executes (is : List Instr) (s u : State) (es : List Event) (k : Nat) : Prop where
  exec : execAll is s = .next u
  cfg : u.cfg = s.cfg
  trace : u.trace = s.trace ++ es
  script : u.script = s.script.drop k
  reads : u.reads = s.reads + k
  clock : u.sclOut = false
  ackf : s.ackf = true → u.ackf = true

theorem Executes.answer {is : List Instr} {s u : State} {es : List Event} {k : Nat} (h : Executes is s u es k)
    (j : Nat) : u.answer j = s.answer (k + j) :=
  answer_after s u k j h.script h.reads

theorem Executes.trans {is js : List Instr} {s u v : State} {es fs : List Event} {k m : Nat}
    (h : Executes is s u es k) (h' : Executes js u v fs m) : Executes (is ++ js) s v (es ++ fs) (k + m) where
  exec := (execAll_append h.exec js).trans h'.exec
  cfg := h'.cfg.trans h.cfg
  trace := by rw [h'.trace, h.trace, List.append_assoc]
  script := by rw [h'.script, h.script, List.drop_drop]
  reads := by rw [h'.reads, h.reads, Nat.add_assoc]
  clock := h'.clock
  ackf := h'.ackf ∘ h.ackf

theorem executes_nil (s : State) (hlow : s.sclOut = false) : Executes [] s s [] 0 :=
  ⟨rfl, rfl, (List.append_nil _).symm, rfl, rfl, hlow, id⟩

/-- START, from any latches (R66). -/
theorem executes_start (s : State) : Executes [.start] s (s.afterUop .start) (startTrace s.cfg.tHalf) 0 :=
  ⟨execAll_singleton (exec_uop .start rfl (absurd rfl)), rfl, rfl, rfl, rfl, rfl, id⟩

theorem executes_txbyte (v : Byte) (s : State) (hlow : s.sclOut = false) :
    Executes [.txbyte v] s (s.afterUop (.txbyte v)) (byteTrace s.cfg.tHalf v) 0 :=
  ⟨execAll_singleton (exec_uop (.txbyte v) rfl fun _ => hlow), rfl, rfl, rfl, rfl, rfl, id⟩

/-- WACK, answered LOW (R79). -/
theorem executes_wack (s : State) (hlow : s.sclOut = false) (h : s.answer 0 = .low) :
    Executes [.wack] s (s.afterUop .wack) (sampleTrace s.cfg.tHalf .low) 1 ∧ (s.afterUop .wack).ackf = true := by
  have hack : (s.afterUop .wack).ackf = true := decide_eq_true h
  have htrace : (s.afterUop .wack).trace = s.trace ++ sampleTrace s.cfg.tHalf .low := by rw [← h]; rfl
  exact ⟨⟨execAll_singleton (exec_uop .wack rfl fun _ => hlow), rfl, htrace, rfl, rfl, rfl, fun _ => hack⟩, hack⟩

/-- A transmitted byte that is acknowledged (R81). -/
theorem executes_sendByte (v : Byte) (s : State) (hlow : s.sclOut = false) (h : s.answer 0 = .low) :
    ∃ u, Executes (sendByte v) s u (sendTrace s.cfg.tHalf v .low) 1 ∧ u.ackf = true := by
  obtain ⟨hwack, hack⟩ := executes_wack (s.afterUop (.txbyte v)) rfl h
  exact ⟨_, (executes_txbyte v s hlow).trans hwack, hack⟩

/-- Transmitted bytes that are all acknowledged. -/
theorem executes_sendBytes (vs : List Byte) (s : State) (hlow : s.sclOut = false) (h : AllAcked s vs.length) :
    ∃ u, Executes (vs.flatMap sendByte) s u (vs.flatMap fun v => sendTrace s.cfg.tHalf v .low) vs.length := by
  induction vs generalizing s with
  | nil => exact ⟨s, executes_nil s hlow⟩
  | cons v vs ih =>
    obtain ⟨u, hu, -⟩ := executes_sendByte v s hlow (h 0 (Nat.succ_pos _))
    obtain ⟨w, hw⟩ := ih u hu.clock fun j hj =>
      (hu.answer j).trans (h _ (by rw [List.length_cons]; omega))
    rw [hu.cfg] at hw
    rw [List.length_cons, Nat.add_comm]
    exact ⟨w, hu.trans hw⟩

/-- A received byte (R77). -/
theorem executes_rxbyte (a : Bool) (s : State) (hlow : s.sclOut = false) :
    Executes [.rxbyte a] s (s.afterUop (.rxbyte a)) (receiveTrace s.cfg.tHalf (s.answers 0 8) a) 8 :=
  ⟨execAll_singleton (exec_uop (.rxbyte a) rfl fun _ => hlow), rfl, rfl, rfl, rfl, rfl, id⟩

/-- The first `m` of the `n` bytes READ receives (R89). -/
theorem executes_receiveBytes (n m : Nat) (s : State) (hlow : s.sclOut = false) :
    ∃ u, Executes ((List.range m).map fun j => .rxbyte (ackOperand j n)) s u
      ((List.range m).flatMap fun i => receiveTrace s.cfg.tHalf (s.answers (8 * i) 8) (ackOperand i n)) (8 * m) := by
  induction m with
  | zero => exact ⟨s, executes_nil s hlow⟩
  | succ m ih =>
    obtain ⟨u, hu⟩ := ih
    have hlast := executes_rxbyte (ackOperand m n) u hu.clock
    rw [answers_after s u (8 * m) 0 8 hu.script hu.reads, hu.cfg] at hlast
    rw [List.range_succ, List.map_append, List.flatMap_append, List.flatMap_singleton]
    exact ⟨_, hu.trans hlast⟩

/-- START and the address byte in write direction, acknowledged (R98). -/
theorem executes_opening (a : Addr7) (s : State) (h : s.answer 0 = .low) :
    ∃ u, Executes (.start :: sendByte (addressByte a false)) s u (openingTrace s.cfg.tHalf a .low) 1 ∧
      u.ackf = true := by
  have hstart := executes_start s
  obtain ⟨u, hu, hack⟩ := executes_sendByte (addressByte a false) (s.afterUop .start) rfl h
  exact ⟨u, hstart.trans hu, hack⟩

/-- READ's three transmitted bytes, acknowledged (R98). -/
theorem executes_readAddress (a : Addr7) (r : Byte) (s : State) (h : AllAcked s 3) :
    ∃ u, Executes (.start :: sendByte (addressByte a false) ++ (sendByte r ++ (.start :: sendByte (addressByte a true))))
      s u (openingTrace s.cfg.tHalf a .low ++ (sendTrace s.cfg.tHalf r .low ++
        (startTrace s.cfg.tHalf ++ sendTrace s.cfg.tHalf (addressByte a true) .low))) 3 ∧ u.ackf = true := by
  obtain ⟨u, hu, -⟩ := executes_opening a s (h 0 (by omega))
  obtain ⟨v, hv, -⟩ := executes_sendByte r u hu.clock ((hu.answer 0).trans (h 1 (by omega)))
  have hregister := hu.trans hv
  have hstart := executes_start v
  obtain ⟨w, hw, hack⟩ := executes_sendByte (addressByte a true) (v.afterUop .start) rfl
    ((hregister.answer 0).trans (h 2 (by omega)))
  have hcfg : (v.afterUop .start).cfg = s.cfg := hregister.cfg
  rw [hu.cfg] at hv
  rw [hregister.cfg] at hstart
  rw [hcfg] at hw
  exact ⟨w, hu.trans (hv.trans (hstart.trans hw)), hack⟩

/-! ## A command and its micro-operations -/

/-- `u` shows the platform events of `t` after those of `s`, and has the registers of `t` that R98's list writes and
its answers. -/
def ShowsCommand (s t u : State) : Prop :=
  u.trace = s.trace ++ t.trace.filter Event.isPlatform ∧
  u.sclOut = t.sclOut ∧ u.sdaOut = t.sdaOut ∧ u.phase = t.phase ∧ u.ackf = t.ackf ∧
  u.script = t.script ∧ u.reads = t.reads

/-- The registers in which a command ends that has emitted the platform events `es` before its STOP, and taken `k`
answers, its transmitted bytes all acknowledged. -/
structure Concludes (s t : State) (es : List Event) (k : Nat) : Prop where
  trace : t.trace.filter Event.isPlatform = es ++ stopTrace s.cfg.tHalf
  script : t.script = s.script.drop k
  reads : t.reads = s.reads + k
  scl : t.sclOut = true
  sda : t.sdaOut = true
  phase : t.phase = .stopped
  ackf : t.ackf = true

/-- After the events before its STOP a command and its micro-operations stop alike (R67). -/
theorem Executes.stop {is : List Instr} {s u t : State} {es : List Event} {k : Nat} (h : Executes is s u es k)
    (hack : u.ackf = true) (ht : Concludes s t es k) :
    ∃ v, execAll (is ++ [.stop]) s = .next v ∧ ShowsCommand s t v := by
  have hstop := exec_uop .stop rfl (s := u) fun _ => h.clock
  refine ⟨u.afterUop .stop, (execAll_append h.exec _).trans (execAll_singleton hstop), ?_, ht.scl.symm, ht.sda.symm,
    ht.phase.symm, hack.trans ht.ackf.symm, h.script.trans ht.script.symm, h.reads.trans ht.reads.symm⟩
  show u.trace ++ stopTrace u.cfg.tHalf = _
  rw [h.trace, h.cfg, ht.trace, List.append_assoc]

theorem filter_isPlatform_sendTrace (t : BitVec 16) (v : Byte) (l : Level) :
    (sendTrace t v l).filter Event.isPlatform = sendTrace t v l := rfl

theorem filter_isPlatform_startTrace (t : BitVec 16) :
    (startTrace t).filter Event.isPlatform = startTrace t := rfl

theorem filter_isPlatform_stop_respond (t : BitVec 16) (st : Status) :
    (stopTrace t ++ [Event.rsp st]).filter Event.isPlatform = stopTrace t := rfl

/-- The `LD` before a data byte of WRITE is no platform event (R5). -/
theorem filter_isPlatform_writeByteTrace (s : State) (a : Addr7) (r : Byte) (l : Level) (j : Nat) :
    (writeByteTrace s a r l j).filter Event.isPlatform = sendTrace s.cfg.tHalf (sentByWrite s a r j) l := by
  match j with
  | 0 | 1 | _ + 2 => rfl

/-- The `ST` after a byte READ receives is no platform event (R5). -/
theorem filter_isPlatform_readByteTrace (s : State) (n i : Nat) :
    (readByteTrace s n i).filter Event.isPlatform =
      receiveTrace s.cfg.tHalf (s.answers (3 + 8 * i) 8) (ackOperand i n) := by
  have hall := isPlatform_receiveTrace s.cfg.tHalf (s.answers (3 + 8 * i) 8) (ackOperand i n)
  rw [readByteTrace, List.filter_append, ← ackOperand, List.filter_eq_self.mpr (List.all_eq_true.mp hall)]
  exact List.append_nil _

/-- WRITE's transmitted bytes, all acknowledged (R98). -/
theorem filter_isPlatform_writeTrace (s : State) (a : Addr7) (r : Byte) (n : Nat) :
    (writeTrace s a r (n + 2)).filter Event.isPlatform =
      openingTrace s.cfg.tHalf a .low ++
        (r :: (List.range n).map s.txByte).flatMap fun v => sendTrace s.cfg.tHalf v .low := by
  simp only [writeTrace, List.filter_append, List.filter_flatMap, filter_isPlatform_startTrace,
    filter_isPlatform_writeByteTrace]
  simp [openingTrace, List.range_succ_eq_map, List.flatMap_map, sentByWrite]

theorem concludes_probeBody (a : Addr7) (s : State) (op : BitVec 4) (a' : Addr7) (r' : Byte) (n' : Index)
    (h : s.answer 0 = .low) :
    Concludes s (run (probeBody a) (s.begun op a' r' n')) (openingTrace s.cfg.tHalf a .low) 1 := by
  have hans : (s.begun op a' r' n').answer 0 = .low := h
  rw [run_probeBody, hans]
  exact ⟨rfl, rfl, rfl, rfl, rfl, rfl, rfl⟩

theorem concludes_writeBody (a : Addr7) (r : Byte) (n : Nat) (s : State) (op : BitVec 4) (a' : Addr7) (r' : Byte)
    (n' : Index) (hn : n < 4096) (h : AllAcked s (n + 2)) :
    Concludes s (run (writeBody a r n) (s.begun op a' r' n'))
      (openingTrace s.cfg.tHalf a .low ++
        (r :: (List.range n).map s.txByte).flatMap fun v => sendTrace s.cfg.tHalf v .low) (n + 2) := by
  have hrun := run_writeBody_acked a r n (s.begun op a' r' n') hn h
  have hsent := filter_isPlatform_writeTrace (s.begun op a' r' n') a r n
  rw [hrun]
  refine ⟨?_, rfl, rfl, rfl, rfl, rfl, rfl⟩
  rw [List.append_assoc, List.filter_append, filter_isPlatform_stop_respond]
  exact congrArg (· ++ stopTrace s.cfg.tHalf) hsent

theorem concludes_readBody (a : Addr7) (r : Byte) (n : Nat) (s : State) (op : BitVec 4) (a' : Addr7) (r' : Byte)
    (n' : Index) (hn : n < 4096) (h : AllAcked s 3) :
    Concludes s (run (readBody a r n) (s.begun op a' r' n'))
      (openingTrace s.cfg.tHalf a .low ++ (sendTrace s.cfg.tHalf r .low ++
        (startTrace s.cfg.tHalf ++ (sendTrace s.cfg.tHalf (addressByte a true) .low ++
          (List.range n).flatMap fun i =>
            receiveTrace s.cfg.tHalf (s.answers (3 + 8 * i) 8) (ackOperand i n))))) (3 + 8 * n) := by
  have hrun := run_readBody_acked a r n (s.begun op a' r' n') hn h
  rw [hrun]
  refine ⟨?_, rfl, rfl, rfl, rfl, rfl, rfl⟩
  rw [List.append_assoc, List.filter_append, List.filter_append, filter_isPlatform_stop_respond, readTrace_three,
    List.filter_flatMap]
  simp only [openingTrace, List.filter_append, filter_isPlatform_startTrace, filter_isPlatform_sendTrace,
    filter_isPlatform_readByteTrace, List.append_assoc]
  rfl

/-- The command completes, and R98's list, executed in its place, shows the same. -/
def IsMicroOperationProgram (i : Instr) (s : State) (data : List Byte) : Prop :=
  ∃ t u, exec i s = .next t ∧ execAll (expansion i data) s = .next u ∧ ShowsCommand s t u

theorem probe_isMicroOperationProgram (a : Addr7) (s : State) (data : List Byte) (hi : s.inited = true)
    (h : s.answer 0 = .low) : IsMicroOperationProgram (.probe a) s data := by
  obtain ⟨u, hu, hack⟩ := executes_opening a s h
  obtain ⟨v, hv, hshows⟩ := hu.stop hack (concludes_probeBody a s 0x4#4 a 0#8 0#12 h)
  exact ⟨_, v, exec_probe_run a s hi, hv, hshows⟩

theorem write_isMicroOperationProgram (a : Addr7) (r : Byte) (n : Nat) (s : State) (hi : s.inited = true)
    (hn : n < 4096) (h : AllAcked s (n + 2)) :
    IsMicroOperationProgram (.write a r n) s ((List.range n).map s.txByte) := by
  have hlen : 1 + (r :: (List.range n).map s.txByte).length = n + 2 := by simp; omega
  obtain ⟨u, hu, hack⟩ := executes_opening a s (h 0 (by omega))
  obtain ⟨v, hv⟩ := executes_sendBytes (r :: (List.range n).map s.txByte) u hu.clock fun j hj =>
    (hu.answer j).trans (h _ (by omega))
  have hall := hu.trans hv
  rw [hu.cfg, hlen] at hall
  obtain ⟨w, hw, hshows⟩ :=
    hall.stop (hv.ackf hack) (concludes_writeBody a r n s 0x2#4 a r (BitVec.ofNat 12 n) hn h)
  refine ⟨_, w, exec_write_run a r n s hi hn, ?_, hshows⟩
  simpa only [expansion, List.flatMap_cons, List.cons_append, List.append_assoc] using hw

theorem read_isMicroOperationProgram (a : Addr7) (r : Byte) (n : Nat) (s : State) (data : List Byte)
    (hi : s.inited = true) (hn : n < 4096) (h : AllAcked s 3) : IsMicroOperationProgram (.read a r n) s data := by
  obtain ⟨u, hu, hack⟩ := executes_readAddress a r s h
  obtain ⟨v, hv⟩ := executes_receiveBytes n n u hu.clock
  simp only [answers_after s u 3 _ 8 hu.script hu.reads, hu.cfg] at hv
  have hall := hu.trans hv
  simp only [List.append_assoc] at hall
  obtain ⟨w, hw, hshows⟩ :=
    hall.stop (hv.ackf hack) (concludes_readBody a r n s 0x3#4 a r (BitVec.ofNat 12 n) hn h)
  refine ⟨_, w, exec_read_run a r n s hi hn, ?_, hshows⟩
  simpa only [expansion, List.cons_append, List.append_assoc] using hw

/-- Settles O42: up to its STOP a command emits, but for its buffer events, what its micro-operations do. -/
theorem commandsAreMicroOperationPrograms : Obligations.CommandsAreMicroOperationPrograms := by
  intro s a r n _ hi hn _ _ i k hik hack
  rcases hik with ⟨rfl, rfl⟩ | ⟨rfl, rfl⟩ | ⟨rfl, rfl⟩
  · exact probe_isMicroOperationProgram a s _ hi (hack 0 (by omega))
  · exact write_isMicroOperationProgram a r n s hi hn hack
  · exact read_isMicroOperationProgram a r n s _ hi hn hack

end Sys2Proof.Machine
end

section
/-! SUPPORT. Proofs of the statements of 60_exceptions.md: a command before INIT, the word presented and the step that
runs it, a step with none presented, and the ports. -/

namespace Sys2Proof.Machine

/-! ## A command before INIT -/

/-- Before INIT an accepted command, whatever its body, is run to its end by the one response NOINIT (R83, R102). -/
theorem finish_start_bodyOrNoInit (s : State) (hi : s.inited = false) (op : BitVec 4) (a : Addr7) (r : Byte)
    (n : Index) (body : List Act) :
    ((s.accept.latch op a r n).start (bodyOrNoInit (s.accept.latch op a r n) body)).finish =
      s.refusedNoInit op a r n := by
  have hbody : bodyOrNoInit (s.accept.latch op a r n) body = [.respond .noinit] :=
    if_neg (Bool.eq_false_iff.mp hi)
  rw [hbody, State.start, finish_settle, run_cons _ _ _ (by simp), run_nil]
  rfl

/-- Settles O28: each of the three is accepted with its latches, and answered. -/
theorem notInitialisedIsRefused : Obligations.NotInitialisedIsRefused := by
  intro s a r n _ hi _
  have hanswer := finish_start_bodyOrNoInit s hi
  exact ⟨congrArg _ (hanswer 0x2#4 a r _ _), congrArg _ (hanswer 0x3#4 a r _ _), congrArg _ (hanswer 0x4#4 a _ _ _)⟩

/-! ## The word presented -/

/-- A step of the state with a word presented takes that word. -/
theorem taking_present (s : State) (w : PortWord) (hcfg : s.cfg.ok = true) : Taking (s.present w) w s.inbox :=
  ⟨hcfg, rfl, rfl, rfl⟩

/-- A word of the opcode table is read by the decoder of its format (R54). -/
theorem decode_tableWord {nbits w : Nat} {i : Instr} (h : decodeTableWord nbits w = some i) :
    decode (tableWord nbits w) = .ok i := by
  have hread : (decode (tableWord nbits w)).instr? = some i := (Option.ite_none_right_eq_some.mp h).2
  cases hdec : decode (tableWord nbits w) <;> rw [hdec] at hread
  case ok j => exact congrArg Decoded.ok (Option.some.inj hread)
  case rejected e => cases hread

/-- Settles O46: the step takes the word presented, and its instruction is run at the whole pace. -/
theorem fetchWordIsRunNext : Obligations.FetchWordIsRunNext := by
  intro s nbits w i hcfg hdec
  exact stepRunsTheDecodedInstruction _ _ _ i (taking_present s _ hcfg) rfl (decode_tableWord hdec)

/-! ## No word presented -/

/-- Settles O53: of an admitted state without reset and without a running command the step takes a word, and there is
none to take. -/
theorem controllerWaitsForACommand : Obligations.ControllerWaitsForACommand := by
  intro s hcfg hrst hb hinbox
  have hadmitted : step s = stepAdmitted s := if_pos hcfg
  have hready : stepAdmitted s = stepReady s := by simp [stepAdmitted, hrst, hb]
  rw [hadmitted, hready, stepReady, hinbox]

/-! ## Ports -/

/-- Settles O56: each port is a field of the state or of the event, and the codes are those of the tables. -/
theorem portsShowTheState : Obligations.PortsShowTheState := by
  refine ⟨fun s e => ?state, fun s i v st n => ?pulses, ?statusCodes, ?phaseCodes⟩
  case state => exact ⟨rfl, rfl, rfl, rfl, rfl, rfl⟩
  case pulses => exact ⟨rfl, rfl, rfl, rfl, rfl, rfl, rfl, rfl, rfl⟩
  case statusCodes | phaseCodes => rfl

end Sys2Proof.Machine
end

section
/-! SUPPORT. Proofs of the statements of 70_reset_and_hazards.md: the micro-operations that find the clock HIGH, and the
step under reset. -/

namespace Sys2Proof.Machine

/-! ## The clock HIGH at entry -/

theorem runUopClockLow_of_high {s : State} (hhigh : s.sclOut = true) (acts : List Act) :
    runUopClockLow acts s = .refused .clockHigh :=
  if_pos hhigh

/-- With the clock HIGH every micro-operation but START is refused before its first action (R131). -/
theorem exec_uop_of_high (i : Instr) (hc : i.isCommand = false) (hne : i ≠ .start) {s : State}
    (hhigh : s.sclOut = true) : exec i s = .refused .clockHigh := by
  cases i
  case start => exact absurd rfl hne
  case stop | txbit | rxbit | txbyte | rxbyte | wack => exact runUopClockLow_of_high hhigh _
  case init | write | read | probe => cases hc

/-- Settles O19: the six are micro-operations, and none of them is START. -/
theorem clockHighIsRefused : Obligations.ClockHighIsRefused := by
  intro s i hhigh hsix
  obtain ⟨hc, hne⟩ : i.isCommand = false ∧ i ≠ .start := by
    rcases hsix with rfl | ⟨b, rfl⟩ | rfl | ⟨v, rfl⟩ | ⟨a, rfl⟩ | rfl <;> exact ⟨rfl, by simp⟩
  exact exec_uop_of_high i hc hne hhigh

/-! ## The step under reset -/

/-- Of an admitted state the step with `rst` = 1 is the reset, whether or not a command is running (R107(e), R121). -/
theorem step_of_reset {s : State} (hcfg : s.cfg.ok = true) (hrst : s.rstFor ≠ 0) : step s = .next s.applyReset :=
  calc
    step s = stepAdmitted s := if_pos hcfg
    _ = .next s.applyReset := if_pos hrst

/-- Settles O52: the step is the reset, and each field of the state it gives is the reset value or is kept. -/
theorem resetOverridesEverything : Obligations.ResetOverridesEverything :=
  fun s hcfg hrst =>
    ⟨s.applyReset, step_of_reset hcfg hrst, rfl, rfl, rfl, rfl, rfl, rfl, rfl, rfl, rfl, rfl, rfl, rfl, rfl⟩

end Sys2Proof.Machine
end

section
/-! SUPPORT. Proof of the model's choice (log 10) about START outside the precondition of R66. -/

namespace Sys2Proof.Machine

/-- Settles O12: START's actions set both latches themselves and the clock's level is asked only of the other
micro-operations, so the level of the data latch before it plays no part. -/
theorem startEventsFromDataLow : Obligations.StartEventsFromDataLow := by
  intro s _
  have hclock : Instr.start ≠ .start → s.sclOut = false := fun hne => absurd rfl hne
  exact exec_uop .start rfl hclock

end Sys2Proof.Machine
end
